-- ==== Sys2Proof/Word.lean ====
section
/-! DEFINITION. The word types of the CHIP-8 core (00_scope.md R4, R6; 10_state.md R10). -/

namespace Sys2Proof

/-- A byte: a general register, a timer, one cell of `mem` (R11, R16, R30). -/
abbrev Byte := BitVec 8

/-- A 12-bit address: the index register `I` and the immediate `NNN` (R14, R48). -/
abbrev Addr := BitVec 12

/-- 16 bits: an instruction word, the program counter, a stack entry (R13, R15, R45). -/
abbrev Word := BitVec 16

/-- A register number `X` or `Y`, 0 to 15; every encodable number is in range (R11, R46). -/
abbrev Reg := Fin 16

/-- A sprite height `N`, 0 to 15 (R48, R96). -/
abbrev Height := Fin 16

/-- A key number, 0x0 to 0xF (R17). -/
abbrev Key := Fin 16

/-- The four bits of a register number or of a sprite height (R46). -/
def nibbleOf (n : Fin 16) : BitVec 4 := BitVec.ofFin n

/-- The number four bits stand for (R46). -/
def ofNibble (b : BitVec 4) : Fin 16 := b.toFin

end Sys2Proof
end

