-- ==== Sys2Proof/Config.lean ====
section
/-! DEFINITION. The parameters the source leaves open (00_scope.md R5) as a type, and the one free
input of the machine, `rand8`. The fixed sizes of R4 are in the types of `State` and are literals
where they are used. The values taken for the parameters stand where a repair may mend them:
`gapFillTaken` in Decode.lean, `config` and the font in Machine/Parameters.lean. -/

namespace Sys2Proof

/-- When the timers tick: `TIMER_TICK_MODE` (R5, decision D10). -/
inductive TickMode where
  /-- one tick at the end of every `Ok` cycle -/
  | perCycle
  /-- `Cycle` never ticks; the host invokes `TimerTick` -/
  | host
deriving DecidableEq, Repr

/-- The parameters of R5 as configuration fields. The other ones of R5 are widths (in `State`) and
`rand8` (below). -/
structure Config where
  /-- `GAP_FILL`: are the ten gap instructions implemented (R110, decision D13) -/
  gapFill  : Bool
  /-- `TIMER_TICK_MODE` (R65, decision D10) -/
  tickMode : TickMode
  /-- `FONT`: any 80 bytes, at addresses 0 to 79 after `Reset` (R33, decision D20) -/
  font     : Vector Byte 80
deriving DecidableEq, Repr

/-- The 8-bit free input `rand8` of a cycle that executes `CXNN` (R60, R116, decision D15): the
`n`-th value drawn. It has no body, so nothing can be proved about any of its values
(assumption log 4). -/
opaque Config.rand8 : Nat → Byte

end Sys2Proof
end

