-- ==== Sys2Proof/Syntax.lean ====
section
/-! DEFINITION. The 34 instructions (30_encoding.md R50, R51), one constructor for each row of
spec/opcode_table.json, with the operand fields the row names (R46, R47). -/

namespace Sys2Proof

/-- An instruction. `gap` marks the rows that exist only when `GAP_FILL` is true (R51). -/
inductive Instr where
  /-- `00E0` CLS -/
  | cls
  /-- `00EE` RET -/
  | ret
  /-- `1NNN` JP NNN -/
  | jp (nnn : Addr)
  /-- `2NNN` CALL NNN -/
  | call (nnn : Addr)
  /-- `3XNN` SE VX, NN -/
  | seImm (x : Reg) (nn : Byte)
  /-- `4XNN` SNE VX, NN -/
  | sneImm (x : Reg) (nn : Byte)
  /-- `5XY0` SE VX, VY -/
  | seReg (x y : Reg)
  /-- `6XNN` LD VX, NN -/
  | ldImm (x : Reg) (nn : Byte)
  /-- `7XNN` ADD VX, NN -/
  | addImm (x : Reg) (nn : Byte)
  /-- `8XY0` LD VX, VY -/
  | ldReg (x y : Reg)
  /-- `8XY1` OR VX, VY (gap) -/
  | orReg (x y : Reg)
  /-- `8XY2` AND VX, VY -/
  | andReg (x y : Reg)
  /-- `8XY3` XOR VX, VY -/
  | xorReg (x y : Reg)
  /-- `8XY4` ADD VX, VY -/
  | addReg (x y : Reg)
  /-- `8XY5` SUB VX, VY -/
  | subReg (x y : Reg)
  /-- `8XY6` SHR VX; the field `Y` is encoded and ignored (R53) -/
  | shr (x y : Reg)
  /-- `8XY7` SUBN VX, VY (gap) -/
  | subnReg (x y : Reg)
  /-- `8XYE` SHL VX (gap); the field `Y` is encoded and ignored (R53) -/
  | shl (x y : Reg)
  /-- `9XY0` SNE VX, VY (gap) -/
  | sneReg (x y : Reg)
  /-- `ANNN` LD I, NNN -/
  | ldI (nnn : Addr)
  /-- `BNNN` JP V0, NNN (gap) -/
  | jpV0 (nnn : Addr)
  /-- `CXNN` RND VX, NN (gap) -/
  | rnd (x : Reg) (nn : Byte)
  /-- `DXYN` DRW VX, VY, N -/
  | drw (x y : Reg) (n : Height)
  /-- `EX9E` SKP VX -/
  | skp (x : Reg)
  /-- `EXA1` SKNP VX -/
  | sknp (x : Reg)
  /-- `FX07` LD VX, DT -/
  | ldVxDt (x : Reg)
  /-- `FX0A` LD VX, K (gap) -/
  | ldVxK (x : Reg)
  /-- `FX15` LD DT, VX -/
  | ldDtVx (x : Reg)
  /-- `FX18` LD ST, VX -/
  | ldStVx (x : Reg)
  /-- `FX1E` ADD I, VX -/
  | addI (x : Reg)
  /-- `FX29` LD F, VX (gap) -/
  | ldFVx (x : Reg)
  /-- `FX33` LD B, VX (gap) -/
  | ldBVx (x : Reg)
  /-- `FX55` LD [I], VX (gap) -/
  | ldMemVx (x : Reg)
  /-- `FX65` LD VX, [I] -/
  | ldVxMem (x : Reg)
deriving DecidableEq, Repr

end Sys2Proof
end

