-- ==== Sys2Proof/WellFormed.lean ====
section
/-! DEFINITION. Which instructions a core with a given `GAP_FILL` has (R5, R51, R110). Operand
ranges need no check: the field types of `Instr` hold exactly the encodable values (R46, R48). -/

namespace Sys2Proof

/-- The ten gap instructions of R51, which the source names and does not define. -/
def Instr.isGap : Instr → Bool
  | .orReg _ _ | .subnReg _ _ | .shl _ _ | .sneReg _ _ | .jpV0 _ | .rnd _ _ | .ldVxK _ | .ldFVx _
  | .ldBVx _ | .ldMemVx _ => true
  | .cls | .ret | .jp _ | .call _ | .seImm _ _ | .sneImm _ _ | .seReg _ _ | .ldImm _ _ | .addImm _ _
  | .ldReg _ _ | .andReg _ _ | .xorReg _ _ | .addReg _ _ | .subReg _ _ | .shr _ _ | .ldI _
  | .drw _ _ _ | .skp _ | .sknp _ | .ldVxDt _ | .ldDtVx _ | .ldStVx _ | .addI _ | .ldVxMem _ => false

/-- An instruction is well formed under a value of `GAP_FILL` if the core then decodes it: every
instruction where `GAP_FILL` is true, only those of R50 where it is false (R51, R110). -/
def Instr.wellFormed (gapFill : Bool) (ins : Instr) : Bool := gapFill || !ins.isGap

end Sys2Proof
end

