-- ==== Sys2Proof/Decode.lean ====
section
/-! DEFINITION. Decoding an instruction word (30_encoding.md R49), total on every byte string, and
the encoder (R46, R50, R51). -/

namespace Sys2Proof

/-- The value of `GAP_FILL` this machine runs at (R5: "true: the 10 gap instructions are
implemented"; decision D13). -/
def gapFillTaken : Bool := true

/-- What a 16-bit word decodes to (R49). -/
inductive Decoded where
  /-- the word selects this instruction -/
  | instr (ins : Instr)
  /-- no pattern matches: an unknown opcode, rejected with the word itself (R52) -/
  | unknown (w : Word)
deriving DecidableEq, Repr

/-- `w[15:12]`, the class (R46). -/
def classOf (w : Word) : BitVec 4 := w.extractLsb' 12 4

/-- `w[11:8]`, the field `X` (R46). -/
def fieldX (w : Word) : Reg := ofNibble (w.extractLsb' 8 4)

/-- `w[7:4]`, the field `Y` (R46). -/
def fieldY (w : Word) : Reg := ofNibble (w.extractLsb' 4 4)

/-- `w[3:0]` as four bits: the secondary dispatch value of classes 5, 8 and 9 (R46, R49). -/
def lowNibble (w : Word) : BitVec 4 := w.extractLsb' 0 4

/-- `w[3:0]`, the field `N` (R46). -/
def fieldN (w : Word) : Height := ofNibble (lowNibble w)

/-- `w[7:0]`, the field `NN` and the secondary dispatch value of classes E and F (R46, R49). -/
def fieldNN (w : Word) : Byte := w.extractLsb' 0 8

/-- `w[11:0]`, the field `NNN` (R46). -/
def fieldNNN (w : Word) : Addr := w.extractLsb' 0 12

/-- A gap pattern: the instruction if `GAP_FILL` is true, else unknown (R49, R51). -/
def gapped (gapFill : Bool) (w : Word) (ins : Instr) : Decoded :=
  if gapFill then .instr ins else .unknown w

/-- Class 0 compares the whole word (R49, conflict C4). -/
def decodeClass0 (w : Word) : Decoded :=
  if w = 0x00E0#16 then .instr .cls
  else if w = 0x00EE#16 then .instr .ret
  else .unknown w

/-- Class 5: the low nibble must be 0 (R49). -/
def decodeClass5 (w : Word) : Decoded :=
  if lowNibble w = 0x0#4 then .instr (.seReg (fieldX w) (fieldY w)) else .unknown w

/-- Class 8 dispatches on the low nibble (R49). -/
def decodeClass8 (gapFill : Bool) (w : Word) : Decoded :=
  match lowNibble w with
  | 0x0#4 => .instr (.ldReg (fieldX w) (fieldY w))
  | 0x1#4 => gapped gapFill w (.orReg (fieldX w) (fieldY w))
  | 0x2#4 => .instr (.andReg (fieldX w) (fieldY w))
  | 0x3#4 => .instr (.xorReg (fieldX w) (fieldY w))
  | 0x4#4 => .instr (.addReg (fieldX w) (fieldY w))
  | 0x5#4 => .instr (.subReg (fieldX w) (fieldY w))
  | 0x6#4 => .instr (.shr (fieldX w) (fieldY w))
  | 0x7#4 => gapped gapFill w (.subnReg (fieldX w) (fieldY w))
  | 0xE#4 => gapped gapFill w (.shl (fieldX w) (fieldY w))
  | _ => .unknown w

/-- Class 9: the low nibble must be 0 (R49, R51). -/
def decodeClass9 (gapFill : Bool) (w : Word) : Decoded :=
  if lowNibble w = 0x0#4 then gapped gapFill w (.sneReg (fieldX w) (fieldY w)) else .unknown w

/-- Class E dispatches on the low byte (R49). -/
def decodeClassE (w : Word) : Decoded :=
  match fieldNN w with
  | 0x9E#8 => .instr (.skp (fieldX w))
  | 0xA1#8 => .instr (.sknp (fieldX w))
  | _ => .unknown w

/-- Class F dispatches on the low byte (R49). -/
def decodeClassF (gapFill : Bool) (w : Word) : Decoded :=
  match fieldNN w with
  | 0x07#8 => .instr (.ldVxDt (fieldX w))
  | 0x0A#8 => gapped gapFill w (.ldVxK (fieldX w))
  | 0x15#8 => .instr (.ldDtVx (fieldX w))
  | 0x18#8 => .instr (.ldStVx (fieldX w))
  | 0x1E#8 => .instr (.addI (fieldX w))
  | 0x29#8 => gapped gapFill w (.ldFVx (fieldX w))
  | 0x33#8 => gapped gapFill w (.ldBVx (fieldX w))
  | 0x55#8 => gapped gapFill w (.ldMemVx (fieldX w))
  | 0x65#8 => .instr (.ldVxMem (fieldX w))
  | _ => .unknown w

/-- `Decode(w)` of R49. -/
def decodeWord (gapFill : Bool) (w : Word) : Decoded :=
  match classOf w with
  | 0x0#4 => decodeClass0 w
  | 0x1#4 => .instr (.jp (fieldNNN w))
  | 0x2#4 => .instr (.call (fieldNNN w))
  | 0x3#4 => .instr (.seImm (fieldX w) (fieldNN w))
  | 0x4#4 => .instr (.sneImm (fieldX w) (fieldNN w))
  | 0x5#4 => decodeClass5 w
  | 0x6#4 => .instr (.ldImm (fieldX w) (fieldNN w))
  | 0x7#4 => .instr (.addImm (fieldX w) (fieldNN w))
  | 0x8#4 => decodeClass8 gapFill w
  | 0x9#4 => decodeClass9 gapFill w
  | 0xA#4 => .instr (.ldI (fieldNNN w))
  | 0xB#4 => gapped gapFill w (.jpV0 (fieldNNN w))
  | 0xC#4 => gapped gapFill w (.rnd (fieldX w) (fieldNN w))
  | 0xD#4 => .instr (.drw (fieldX w) (fieldY w) (fieldN w))
  | 0xE#4 => decodeClassE w
  | 0xF#4 => decodeClassF gapFill w
  | _ => .unknown w

/-- The big-endian word of two bytes: the byte at `pc` supplies bits 15 to 8, the byte at `pc + 1`
bits 7 to 0 (20_memory.md R35). -/
def wordOfBytes (hi lo : Byte) : Word := hi ++ lo

/-- The byte at `pc` of a word (R35). -/
def highByte (w : Word) : Byte := w.extractLsb' 8 8

/-- The byte at `pc + 1` of a word (R35). -/
def lowByte (w : Word) : Byte := w.extractLsb' 0 8

/-- Why a byte string gives no instruction. -/
inductive Rejection where
  /-- fewer than the two bytes every instruction has (R45) -/
  | truncated
  /-- no pattern in any dispatch level (R52) -/
  | unknownOpcode (w : Word)
deriving DecidableEq, Repr

/-- Decode the instruction at the head of a byte string and give the rest: two bytes, big-endian
(R35, R45, R49). -/
def decode (gapFill : Bool) : List Byte → Except Rejection (Instr × List Byte)
  | hi :: lo :: rest =>
    match decodeWord gapFill (wordOfBytes hi lo) with
    | .instr ins => .ok (ins, rest)
    | .unknown w => .error (.unknownOpcode w)
  | [_] => .error .truncated
  | [] => .error .truncated

/-! ### The encoder -/

/-- Format `NNN`: class and address (R47). -/
def packNNN (c : BitVec 4) (nnn : Addr) : Word := c ++ nnn

/-- Format `XNN`, and format `X` with its fixed low byte (R47). -/
def packXNN (c : BitVec 4) (x : Reg) (nn : Byte) : Word := c ++ nibbleOf x ++ nn

/-- Format `XYN`, and format `XY` with its fixed low nibble (R47). -/
def packXYN (c : BitVec 4) (x y : Reg) (n : BitVec 4) : Word := c ++ nibbleOf x ++ nibbleOf y ++ n

/-- The word of an instruction, from the patterns of R50 and R51. -/
def encode : Instr → Word
  | .cls => 0x00E0#16
  | .ret => 0x00EE#16
  | .jp nnn => packNNN 0x1#4 nnn
  | .call nnn => packNNN 0x2#4 nnn
  | .seImm x nn => packXNN 0x3#4 x nn
  | .sneImm x nn => packXNN 0x4#4 x nn
  | .seReg x y => packXYN 0x5#4 x y 0x0#4
  | .ldImm x nn => packXNN 0x6#4 x nn
  | .addImm x nn => packXNN 0x7#4 x nn
  | .ldReg x y => packXYN 0x8#4 x y 0x0#4
  | .orReg x y => packXYN 0x8#4 x y 0x1#4
  | .andReg x y => packXYN 0x8#4 x y 0x2#4
  | .xorReg x y => packXYN 0x8#4 x y 0x3#4
  | .addReg x y => packXYN 0x8#4 x y 0x4#4
  | .subReg x y => packXYN 0x8#4 x y 0x5#4
  | .shr x y => packXYN 0x8#4 x y 0x6#4
  | .subnReg x y => packXYN 0x8#4 x y 0x7#4
  | .shl x y => packXYN 0x8#4 x y 0xE#4
  | .sneReg x y => packXYN 0x9#4 x y 0x0#4
  | .ldI nnn => packNNN 0xA#4 nnn
  | .jpV0 nnn => packNNN 0xB#4 nnn
  | .rnd x nn => packXNN 0xC#4 x nn
  | .drw x y n => packXYN 0xD#4 x y (nibbleOf n)
  | .skp x => packXNN 0xE#4 x 0x9E#8
  | .sknp x => packXNN 0xE#4 x 0xA1#8
  | .ldVxDt x => packXNN 0xF#4 x 0x07#8
  | .ldVxK x => packXNN 0xF#4 x 0x0A#8
  | .ldDtVx x => packXNN 0xF#4 x 0x15#8
  | .ldStVx x => packXNN 0xF#4 x 0x18#8
  | .addI x => packXNN 0xF#4 x 0x1E#8
  | .ldFVx x => packXNN 0xF#4 x 0x29#8
  | .ldBVx x => packXNN 0xF#4 x 0x33#8
  | .ldMemVx x => packXNN 0xF#4 x 0x55#8
  | .ldVxMem x => packXNN 0xF#4 x 0x65#8

/-- The two bytes of an instruction in memory order (R35, R46). -/
def encodeBytes (ins : Instr) : List Byte := [highByte (encode ins), lowByte (encode ins)]

/-! ### The host's numbering of table words -/

/-- The word an opcode-table row's bits stand for: bit 0 is the least significant bit of the one
16-bit word, and bits above `nbits` are 0 (assumption log 31). -/
def tableWord (nbits w : Nat) : Word := BitVec.ofNat 16 (w % 2 ^ nbits)

/-- The instruction the decoder reads from the bytes of a table word, laid out big-endian (R35). -/
def decodeTableWord (nbits w : Nat) : Option Instr :=
  match decode gapFillTaken [highByte (tableWord nbits w), lowByte (tableWord nbits w)] with
  | .ok (ins, _) => some ins
  | .error _ => none

end Sys2Proof
end

