-- ==== Sys2Proof/Machine/State.lean ====
section
/-! DEFINITION. The state of the CHIP-8 core as plain data (10_state.md R10): the twelve elements
the spec names, then the model's own fields (the outputs of the last cycle, the ghost facts of
R22, the counter of free values). The reset state is R160's. -/

namespace Sys2Proof.Machine

/-- The cause a fatal fault records (60_exceptions.md R136, codes 1 to 5). Code 6,
`RegisterIndexOutOfRange`, is never raised (R143) and is `Fault.registerIndexOutOfRange` below. -/
inductive Cause where
  /-- code 1, raised by the fetch: `pc > 4094`; records `pc` (R137) -/
  | fetchOutOfBounds (pc : Word)
  /-- code 2, raised by `DXYN`, `FX65`, `FX33`, `FX55`; records the first address out of bounds,
  which is always 4096 (R138) -/
  | memoryOutOfBounds (addr : Nat)
  /-- code 3, raised by `2NNN`: `sp = 16` (R140) -/
  | stackOverflow
  /-- code 4, raised by `00EE`: `sp = 0` (R140) -/
  | stackUnderflow
  /-- code 5, raised by `EX9E`, `EXA1`: `V[X] > 15`; records `V[X]` (R142) -/
  | keyIndexOutOfRange (vx : Byte)
deriving DecidableEq, Repr

/-- `run_state` (R20). -/
inductive RunState where
  | running
  | halted (cause : Cause)
deriving DecidableEq, Repr

/-- What a `Cycle` returns to the host (40_cycle.md R66). -/
inductive CycleOutcome where
  /-- all four steps completed -/
  | ok
  /-- decode found no pattern: the recoverable report of R141, with the address and the word -/
  | unknownOpcode (pc w : Word)
  /-- this cycle raised a fatal fault (R139) -/
  | fatal (cause : Cause)
  /-- the core was halted already -/
  | stillHalted (cause : Cause)
deriving DecidableEq, Repr

/-- The reasons a step could end without a next state, as `Host.Outcome` has them. No step of this
machine does: the fatal faults of R136 are next states in `RunState.halted` (assumption log 1). -/
inductive Fault where
  /-- code 6 of R136, reserved and raised by nothing: a register number is a 4-bit field, so it
  cannot leave [0, 15] (R143). Safe: it never happens. -/
  | registerIndexOutOfRange
deriving DecidableEq, Repr

/-- The reasons for which the model itself would give no meaning. -/
inductive Refusal where
  /-- an arm of `exec` without a meaning, named as spec/opcode_table.json names the row. Safe: the
  model stops. No arm of `exec` answers with it. -/
  | notModelled (mnemonic : String)
deriving DecidableEq, Repr

/-- The machine. `fb` holds row `y` of the framebuffer as 64 bits whose bit `x` is the cell
`x + 64 * y` of R18 (assumption log 32). -/
structure State where
  /-- `mem` (R21, R30): the bytes that differ from `initialByte`, at strictly rising addresses -/
  mem       : List Host.Cell
  /-- `V[0]` to `V[15]`; `VF` is `V[15]` (R11, R12) -/
  v         : Vector Byte 16
  /-- `I`, 12 bits (R14) -/
  i         : Addr
  /-- `pc`, 16 bits (R13) -/
  pc        : Word
  /-- `stack[0]` to `stack[15]` (R15) -/
  stack     : Vector Word 16
  /-- `sp`, 0 to 16, the number of live entries (R15) -/
  sp        : Fin 17
  /-- `DT` (R16) -/
  dt        : Byte
  /-- `ST` (R16) -/
  st        : Byte
  /-- `key[0]` to `key[15]`, true where pressed (R17) -/
  key       : Vector Bool 16
  /-- `fb`, 32 rows of 64 cells (R18) -/
  fb        : Vector (BitVec 64) 32
  /-- `redraw` (R19) -/
  redraw    : Bool
  /-- `run_state` (R20) -/
  runState  : RunState
  /-- the model's own: the outcome the last `Cycle` since `Reset` returned, none before the first
  (R22, R66, R131) -/
  outcome   : Option CycleOutcome
  /-- the model's own: the `tone` output of the last `Cycle` (R22, R66, R151) -/
  tone      : Bool
  /-- the model's own: how many values of `Config.rand8` have been drawn (R60, R116) -/
  draws     : Nat
  /-- the model's own: a ROM was loaded since `Reset` (R127, R133, decision D22) -/
  romLoaded : Bool
deriving DecidableEq, Repr

/-- The machine right after `Reset` (70_reset_and_hazards.md R160) at the parameters taken: the font
is what unlisted bytes 0 to 79 of `mem` read as, everything else is zero, `pc` is 0x200. At another
`FONT` it is `State.resetAt`. -/
def State.reset : State where
  mem       := []
  v         := Vector.replicate 16 0
  i         := 0
  pc        := 0x200
  stack     := Vector.replicate 16 0
  sp        := 0
  dt        := 0
  st        := 0
  key       := Vector.replicate 16 false
  fb        := Vector.replicate 32 0
  redraw    := false
  runState  := .running
  outcome   := none
  tone      := false
  draws     := 0
  romLoaded := false

end Sys2Proof.Machine
end

