-- ==== Sys2Proof/Machine/Flags.lean ====
section
/-! DEFINITION. Every value an instruction writes to `VF` as a side effect (10_state.md R12), and
the arithmetic beside it (42_load_and_alu.md R88). All values are unsigned. -/

namespace Sys2Proof.Machine

/-- A flag as the byte written to `VF`: 1 or 0 (R12). -/
def flagByte (b : Bool) : Byte := if b then 1 else 0

/-- The carry of `8XY4`: does the unwrapped sum exceed 255 (R85, R88)? -/
def carryFlag (a b : Byte) : Byte := flagByte (255 < a.toNat + b.toNat)

/-- "No borrow" of `a - b`: 1 when `a >= b`, equality included (R86, R88, R112). -/
def noBorrowFlag (a b : Byte) : Byte := flagByte (b.toNat ≤ a.toNat)

/-- The bit a shift right drops, bit 0 (R87). -/
def shiftedOutRight (a : Byte) : Byte := a &&& 1

/-- The bit a shift left drops, bit 7 (R113). -/
def shiftedOutLeft (a : Byte) : Byte := a >>> 7

/-- The collision flag of `DXYN` (R96). -/
def collisionFlag (hit : Bool) : Byte := flagByte hit

end Sys2Proof.Machine
end

