-- ==== Sys2Proof/Machine/Parameters.lean ====
section
/-! DEFINITION. The values taken for the parameters of 00_scope.md R5. -/

namespace Sys2Proof.Machine

/-- The value taken for `FONT`: the table of R33, the glyphs of the digits 0 to F, five bytes each
(PRESUMED by the spec from general knowledge; assumption log 6). -/
def fontBytes : List Byte :=
  [0xF0, 0x90, 0x90, 0x90, 0xF0] ++ [0x20, 0x60, 0x20, 0x20, 0x70] ++
  [0xF0, 0x10, 0xF0, 0x80, 0xF0] ++ [0xF0, 0x10, 0xF0, 0x10, 0xF0] ++
  [0x90, 0x90, 0xF0, 0x10, 0x10] ++ [0xF0, 0x80, 0xF0, 0x10, 0xF0] ++
  [0xF0, 0x80, 0xF0, 0x90, 0xF0] ++ [0xF0, 0x10, 0x20, 0x40, 0x40] ++
  [0xF0, 0x90, 0xF0, 0x90, 0xF0] ++ [0xF0, 0x90, 0xF0, 0x10, 0xF0] ++
  [0xF0, 0x90, 0xF0, 0x90, 0x90] ++ [0xE0, 0x90, 0xE0, 0x90, 0xE0] ++
  [0xF0, 0x80, 0x80, 0x80, 0xF0] ++ [0xE0, 0x90, 0x90, 0x90, 0xE0] ++
  [0xF0, 0x80, 0xF0, 0x80, 0xF0] ++ [0xF0, 0x80, 0xF0, 0x80, 0x80]

/-- The parameters this machine runs at (R5): `GAP_FILL = true`, `TIMER_TICK_MODE = per_cycle` and
the font of R33 (decisions D10, D13, D20). -/
def config : Config where
  gapFill  := gapFillTaken
  tickMode := .perCycle
  font     := ⟨⟨fontBytes⟩, rfl⟩

end Sys2Proof.Machine
end

