-- ==== Sys2Proof/Machine/Memory.lean ====
section
/-! DEFINITION. The 4096-byte memory (20_memory.md R30 to R34): what an unlisted address reads as,
the canonical form, reading and writing one byte. -/

namespace Sys2Proof.Machine

/-- What an address that `State.mem` does not list reads as: the content at a reset with the
parameters taken, the font in bytes 0 to 79 and zero above (R21, R32). The bytes of another `FONT`
are listed where they differ (`State.resetAt`; assumption log 34). -/
def initialByte (a : Nat) : Byte := (config.font.toList[a]?).getD 0

/-- `mem[a]` for an address 0 to 4095; an instruction checks its addresses first (R34). -/
def Memory.read : List Host.Cell → Nat → Byte
  | [], a => initialByte a
  | (k, b) :: rest, a => if k = a then b else Memory.read rest a

/-- A cell in front of `rest`, left out where the byte is what the address reads as anyway. -/
def Memory.put (a : Nat) (b : Byte) (rest : List Host.Cell) : List Host.Cell :=
  if b = initialByte a then rest else (a, b) :: rest

/-- `mem[a] <- b`, keeping the canonical form. -/
def Memory.write : List Host.Cell → Nat → Byte → List Host.Cell
  | [], a, b => Memory.put a b []
  | (k, c) :: rest, a, b =>
    if a < k then Memory.put a b ((k, c) :: rest)
    else if a = k then Memory.put a b rest
    else (k, c) :: Memory.write rest a b

/-- The canonical form: addresses strictly rising, all of them addresses of `mem`, and no entry
equal to what an unlisted address reads as. -/
abbrev Memory.wf (m : List Host.Cell) : Prop :=
  m.Pairwise (fun p q => p.1 < q.1) ∧ ∀ c ∈ m, c.1 < 4096 ∧ c.2 ≠ initialByte c.1

/-- `mem[base + k] <- bytes[k]`, byte after byte at ascending addresses (R36, R127). -/
def Memory.writeBytes (m : List Host.Cell) (base : Nat) : List Byte → List Host.Cell
  | [] => m
  | b :: rest => Memory.writeBytes (Memory.write m base b) (base + 1) rest

/-- Do the `len` bytes from `base` on all lie in `mem`? With `len = 0` no byte is accessed (R34,
R138). -/
def inMemory (base len : Nat) : Bool := base + len ≤ 4096

end Sys2Proof.Machine
end

