-- ==== Sys2Proof/Machine/Operands.lean ====
section
/-! DEFINITION. The operand forms (30_encoding.md R48, 43_index_and_memory.md R93): a register, the
registers `V0` to `VX`, an immediate widened to an address, the bytes from `I` on, a key. -/

namespace Sys2Proof.Machine

/-- `VF` (R12). -/
abbrev regF : Reg := 15

/-- Read of `V[r]` (R7, R11). -/
def State.reg (s : State) (r : Reg) : Byte := s.v[r]

/-- Read of the byte at `a` (R7). -/
def State.byteAt (s : State) (a : Nat) : Byte := Memory.read s.mem a

/-- The registers 0, 1, ..., `x` of a block transfer, in order (R92, R120). -/
def regsUpTo (x : Reg) : List Reg :=
  [0, 1, 2, 3, 4, 5, 6, 7, 8, 9, 10, 11, 12, 13, 14, 15].filter (· ≤ x)

/-- The length `X + 1` of a block transfer (R48). -/
def blockLength (x : Reg) : Nat := x.val + 1

/-- `zext_16` of an immediate address (R48). -/
def zext16 (a : Addr) : Word := a.setWidth 16

/-- The effective address `I + k`, exact, not reduced modulo 4096 (R34, R93). -/
def State.ea (s : State) (k : Nat) : Nat := s.i.toNat + k

/-- `I + V[X]` modulo 4096, the value `FX1E` keeps in the 12-bit register (R91). -/
def indexPlus (i : Addr) (b : Byte) : Addr := i + b.setWidth 12

/-- The address of a glyph, `FONT_BASE + 5 * V[X]` with `FONT_BASE` 0 (R4), not masked (R118). -/
def glyphAddr (b : Byte) : Addr := BitVec.ofNat 12 (5 * b.toNat)

/-- The three decimal digits of a byte, hundreds first (R119). -/
def bcdDigits (b : Byte) : List Byte :=
  [BitVec.ofNat 8 (b.toNat / 100), BitVec.ofNat 8 (b.toNat / 10 % 10), BitVec.ofNat 8 (b.toNat % 10)]

/-- The key a register value numbers, if it is 0 to 15; the low nibble is not taken silently
(R102). -/
def keyOf (b : Byte) : Option Key := if h : b.toNat < 16 then some ⟨b.toNat, h⟩ else none

/-- Is key `k` pressed (R17)? -/
def State.pressed (s : State) (k : Key) : Bool := s.key[k]

/-- The lowest-numbered key that is down (R117). -/
def State.lowestKey (s : State) : Option Key :=
  [0, 1, 2, 3, 4, 5, 6, 7, 8, 9, 10, 11, 12, 13, 14, 15].find? (fun k => s.pressed k)

end Sys2Proof.Machine
end

