-- ==== Sys2Proof/Machine/Ops.lean ====
section
/-! DEFINITION. The named operations every meaning is built from: register writes, the `pc` update,
the call stack, block transfers, the fatal fault, the timer tick, and the parts of `Cycle` before
and after the execute step. -/

namespace Sys2Proof.Machine

/-! ### Writes -/

/-- `V[r] <- b` (R7). -/
def State.setReg (s : State) (r : Reg) (b : Byte) : State := { s with v := s.v.set r b }

/-- `I <- a` (R7). -/
def State.setIndex (s : State) (a : Addr) : State := { s with i := a }

/-- `pc <- p` (R7). -/
def State.setPc (s : State) (p : Word) : State := { s with pc := p }

/-- `DT <- b` (R106). -/
def State.setDelay (s : State) (b : Byte) : State := { s with dt := b }

/-- `ST <- b` (R107). -/
def State.setSound (s : State) (b : Byte) : State := { s with st := b }

/-- A new framebuffer; both instructions that write it request a redraw (R19, R95, R96). -/
def State.setScreen (s : State) (f : Vector (BitVec 64) 32) : State :=
  { s with fb := f, redraw := true }

/-- `mem[base + k] <- bytes[k]` (R36). -/
def State.store (s : State) (base : Nat) (bytes : List Byte) : State :=
  { s with mem := Memory.writeBytes s.mem base bytes }

/-- `V[j] <- mem[base + j]` for the registers listed (R92). -/
def State.loadRegs (s : State) (base : Nat) (js : List Reg) : State :=
  js.foldl (fun t j => t.setReg j (s.byteAt (base + j.val))) s

/-! ### The program counter -/

/-- `pc <- pc + 2` (R64). -/
def State.advance (s : State) : State := s.setPc (s.pc + 2)

/-- `pc <- pc + 4` if the condition holds, else `pc + 2` (R64). -/
def State.skipIf (s : State) (c : Bool) : State := s.setPc (if c then s.pc + 4 else s.pc + 2)

/-! ### The call stack (R15) -/

/-- Push `a`: `stack[sp] <- a; sp <- sp + 1`, none where the stack is full. -/
def State.push (s : State) (a : Word) : Option State :=
  if h : s.sp.val < 16 then
    some { s with stack := s.stack.set s.sp.val a, sp := ⟨s.sp.val + 1, by omega⟩ }
  else none

/-- Pop: `sp <- sp - 1` and the value is `stack[sp]` at the new `sp`; none where the stack is
empty. The entry keeps its value. -/
def State.pop (s : State) : Option (Word × State) :=
  if h : s.sp.val = 0 then none
  else some (s.stack[s.sp.val - 1]'(by omega), { s with sp := ⟨s.sp.val - 1, by omega⟩ })

/-! ### The fatal fault (60_exceptions.md R139) -/

/-- Raise a fatal fault: `run_state <- Halted(cause)` and nothing else; `pc` stays at the faulting
instruction and there is no handler. Only `Reset` returns the core to `Running` (R126, R148). -/
def State.raise (s : State) (c : Cause) : State := { s with runState := .halted c }

/-- The fault of a data access: the first address out of bounds is always 4096 (R138). -/
def outOfMemory : Cause := .memoryOutOfBounds 4096

/-- The outcome of the execute step as the host's interface has it: always a next state. -/
abbrev Result := Host.Outcome State Fault Refusal

/-- Run `act` if the `len` bytes from `I` on lie in memory, else raise `MemoryOutOfBounds`, before
any write (R138, R139). -/
def withBlock (s : State) (len : Nat) (act : State → State) : Result :=
  if inMemory s.i.toNat len then .next (act s) else .next (s.raise outOfMemory)

/-- Run `act` on the key that `V[X]` numbers, else raise `KeyIndexOutOfRange` (R102, R142). -/
def withKey (s : State) (x : Reg) (act : Key → State) : Result :=
  match keyOf (s.reg x) with
  | some k => .next (act k)
  | none => .next (s.raise (.keyIndexOutOfRange (s.reg x)))

/-! ### Results with a flag (R63: operands latched, writes in the listed order) -/

/-- The result to `V[X]` first, then the flag to `VF`: the order of `8XY4` (R85). -/
def State.resultThenFlag (s : State) (x : Reg) (result flag : Byte) : State :=
  ((s.setReg x result).setReg regF flag).advance

/-- The flag to `VF` first, then the result to `V[X]`: the order of `8XY5`, `8XY6`, `8XY7`, `8XYE`
(R86, R87, R112, R113). -/
def State.flagThenResult (s : State) (x : Reg) (flag result : Byte) : State :=
  ((s.setReg regF flag).setReg x result).advance

/-- `V[X] <- rand & NN` with `rand` the free byte of this cycle (R116). -/
def State.random (s : State) (x : Reg) (nn rand : Byte) : State :=
  { (s.setReg x (rand &&& nn)).advance with draws := s.draws + 1 }

/-! ### Timers (R150, R151) -/

/-- One timer towards zero; at 0 it stays 0. -/
def countDown (b : Byte) : Byte := if b = 0 then 0 else b - 1

/-- The timers after a tick. -/
def State.tick (s : State) : State := { s with dt := countDown s.dt, st := countDown s.st }

/-- The `tone` a tick returns: 1 exactly when it takes `ST` from 1 to 0. -/
def State.tickTone (s : State) : Bool := s.st = 1

/-! ### The parts of `Cycle` around the execute step (40_cycle.md R67) -/

/-- The outputs of a cycle (R66). They are no state of the core: nothing in a cycle reads them. -/
def State.report (s : State) (o : CycleOutcome) (tone : Bool) : State :=
  { s with outcome := some o, tone := tone }

/-- The word at `pc`, big-endian (R35, R61). -/
def State.fetchWord (s : State) : Word :=
  wordOfBytes (s.byteAt s.pc.toNat) (s.byteAt (s.pc.toNat + 1))

/-- What fetch and decode come to: the cycle ends here, or an instruction is executed. -/
inductive Fetched where
  | ended (s : State)
  | run (ins : Instr)
deriving DecidableEq, Repr

/-- Steps 1 and 2 of a cycle in the order of R145: a halted core does nothing, a `pc` above 4094 is
a fatal fault, an unknown word is reported and changes nothing. -/
def fetch (c : Config) (s : State) : Fetched :=
  match s.runState with
  | .halted cause => .ended (s.report (.stillHalted cause) false)
  | .running =>
    if 4094 < s.pc.toNat then
      .ended ((s.raise (.fetchOutOfBounds s.pc)).report (.fatal (.fetchOutOfBounds s.pc)) false)
    else
      match decodeWord c.gapFill s.fetchWord with
      | .instr ins => .run ins
      | .unknown w => .ended (s.report (.unknownOpcode s.pc w) false)

/-- Step 4 and the outcome: `s` is the state after the execute step. A fault that step raised ends
the cycle without a tick (R65, R67, R139). -/
def complete (c : Config) (s : State) : State :=
  match s.runState with
  | .halted cause => s.report (.fatal cause) false
  | .running =>
    match c.tickMode with
    | .perCycle => s.tick.report .ok s.tickTone
    | .host => s.report .ok false

/-! ### Placing an instruction for the next step -/

/-- Where the next fetch reads: `pc`, or the reset vector where `pc` cannot be fetched at. -/
def State.fetchable (s : State) : Word := if 4094 < s.pc.toNat then 0x200 else s.pc

/-- A running state whose next fetch gives `w`: the two bytes of `w` stored at `pc` (R35). -/
def State.placeWord (s : State) (w : Word) : State :=
  { s with
    pc := s.fetchable
    runState := .running
    mem := Memory.writeBytes s.mem s.fetchable.toNat [highByte w, lowByte w] }

end Sys2Proof.Machine
end

