-- ==== Sys2Proof/Machine/Alu.lean ====
section
/-! DEFINITION. Register load and ALU: `6XNN`, `7XNN`, `8XY0` to `8XY6` (42_load_and_alu.md) and the
gap instructions `8XY1`, `8XY7`, `8XYE`, `CXNN` (48_gap_fill.md sections 2 and 4). Arithmetic on
bytes wraps modulo 256 (R88). -/

namespace Sys2Proof.Machine

/-- `6XNN` LD (R80). -/
def execLdImm (x : Reg) (nn : Byte) (s : State) : Result := .next (s.setReg x nn).advance

/-- `7XNN` ADD (R81): no carry is recorded. -/
def execAddImm (x : Reg) (nn : Byte) (s : State) : Result := .next (s.setReg x (s.reg x + nn)).advance

/-- `8XY0` LD (R82). -/
def execLdReg (x y : Reg) (s : State) : Result := .next (s.setReg x (s.reg y)).advance

/-- `8XY1` OR (R111). -/
def execOrReg (x y : Reg) (s : State) : Result := .next (s.setReg x (s.reg x ||| s.reg y)).advance

/-- `8XY2` AND (R83). -/
def execAndReg (x y : Reg) (s : State) : Result := .next (s.setReg x (s.reg x &&& s.reg y)).advance

/-- `8XY3` XOR (R84). -/
def execXorReg (x y : Reg) (s : State) : Result := .next (s.setReg x (s.reg x ^^^ s.reg y)).advance

/-- `8XY4` ADD (R85): the carry is written second. -/
def execAddReg (x y : Reg) (s : State) : Result :=
  .next (s.resultThenFlag x (s.reg x + s.reg y) (carryFlag (s.reg x) (s.reg y)))

/-- `8XY5` SUB (R86): the flag is written first. -/
def execSubReg (x y : Reg) (s : State) : Result :=
  .next (s.flagThenResult x (noBorrowFlag (s.reg x) (s.reg y)) (s.reg x - s.reg y))

/-- `8XY6` SHR (R87): shifts `V[X]` in place, the field `Y` is ignored (R53). -/
def execShr (x _y : Reg) (s : State) : Result :=
  .next (s.flagThenResult x (shiftedOutRight (s.reg x)) (s.reg x >>> 1))

/-- `8XY7` SUBN (R112). -/
def execSubnReg (x y : Reg) (s : State) : Result :=
  .next (s.flagThenResult x (noBorrowFlag (s.reg y) (s.reg x)) (s.reg y - s.reg x))

/-- `8XYE` SHL (R113): shifts `V[X]` in place, the field `Y` is ignored (R53). -/
def execShl (x _y : Reg) (s : State) : Result :=
  .next (s.flagThenResult x (shiftedOutLeft (s.reg x)) (s.reg x <<< 1))

/-- `CXNN` RND (R116): the random byte is the next free value, about which nothing is known. -/
def execRnd (x : Reg) (nn : Byte) (s : State) : Result := .next (s.random x nn (Config.rand8 s.draws))

end Sys2Proof.Machine
end

