-- ==== Sys2Proof/Machine/ControlFlow.lean ====
section
/-! DEFINITION. Control flow: `00EE`, `1NNN`, `2NNN`, `3XNN`, `4XNN`, `5XY0` (41_control_flow.md)
and the gap instructions `9XY0`, `BNNN` (48_gap_fill.md section 3). -/

namespace Sys2Proof.Machine

/-- `00EE` RET (R70): the popped entry is used as it is. -/
def execRet (s : State) : Result :=
  match s.pop with
  | some (a, t) => .next (t.setPc a)
  | none => .next (s.raise .stackUnderflow)

/-- `1NNN` JP (R71). -/
def execJp (nnn : Addr) (s : State) : Result := .next (s.setPc (zext16 nnn))

/-- `2NNN` CALL (R72, conflict C2): the entry pushed is the return address `pc + 2`. -/
def execCall (nnn : Addr) (s : State) : Result :=
  match s.push (s.pc + 2) with
  | some t => .next (t.setPc (zext16 nnn))
  | none => .next (s.raise .stackOverflow)

/-- `3XNN` SE (R73). -/
def execSeImm (x : Reg) (nn : Byte) (s : State) : Result := .next (s.skipIf (s.reg x == nn))

/-- `4XNN` SNE (R74). -/
def execSneImm (x : Reg) (nn : Byte) (s : State) : Result := .next (s.skipIf (s.reg x != nn))

/-- `5XY0` SE (R75). -/
def execSeReg (x y : Reg) (s : State) : Result := .next (s.skipIf (s.reg x == s.reg y))

/-- `9XY0` SNE (R114). -/
def execSneReg (x y : Reg) (s : State) : Result := .next (s.skipIf (s.reg x != s.reg y))

/-- `BNNN` JP V0 (R115): the sum is not reduced modulo 4096. -/
def execJpV0 (nnn : Addr) (s : State) : Result :=
  .next (s.setPc (zext16 nnn + (s.reg 0).setWidth 16))

end Sys2Proof.Machine
end

