-- ==== Sys2Proof/Machine/Display.lean ====
section
/-! DEFINITION. The display: `00E0` and the sprite blitter `DXYN` (44_display.md). -/

namespace Sys2Proof.Machine

/-- The framebuffer (R18). -/
abbrev Screen := Vector (BitVec 64) 32

/-- A cell by column and row (R18). -/
abbrev Pixel := Fin 64 × Fin 32

/-- Is the cell 1? -/
def Screen.lit (f : Screen) (p : Pixel) : Bool := f[p.2].getLsbD p.1.val

/-- XOR the cell with 1. -/
def Screen.toggle (f : Screen) (p : Pixel) : Screen :=
  f.set p.2 (f[p.2] ^^^ BitVec.twoPow 64 p.1.val)

/-- `fb[c]`, the cell `c = x + 64 * y` (R18). -/
def State.cell (s : State) (c : Nat) : Bool :=
  Screen.lit s.fb (Fin.ofNat 64 c, Fin.ofNat 32 (c / 64))

/-- `00E0` CLS (R95). -/
def execCls (s : State) : Result := .next (s.setScreen (Vector.replicate 32 0)).advance

/-- The cell of column `col` and row `row` of a sprite drawn at `vx`, `vy`: both axes wrap (R96,
decision D7). -/
def spritePixel (vx vy : Byte) (row col : Nat) : Pixel :=
  (Fin.ofNat 64 (vx.toNat + col), Fin.ofNat 32 (vy.toNat + row))

/-- The cells of one sprite row that a set bit falls on; bit 7 is the leftmost pixel (R96). -/
def rowPixels (vx vy : Byte) (row : Nat) (b : Byte) : List Pixel :=
  [0, 1, 2, 3, 4, 5, 6, 7].filterMap fun col =>
    if b.getLsbD (7 - col) then some (spritePixel vx vy row col) else none

/-- The cells the set bits of a sprite fall on, row after row from row `row` on (R96). -/
def spritePixels (vx vy : Byte) (row : Nat) : List Byte → List Pixel
  | [] => []
  | b :: rest => rowPixels vx vy row b ++ spritePixels vx vy (row + 1) rest

/-- One set sprite bit: a collision if the cell is 1 as it stands when reached, then the XOR
(R96). -/
def drawPixel (fh : Screen × Bool) (p : Pixel) : Screen × Bool :=
  (fh.1.toggle p, fh.2 || fh.1.lit p)

/-- The framebuffer after a sprite, and whether any bit collided (R96). -/
def blit (f : Screen) (ps : List Pixel) : Screen × Bool := ps.foldl drawPixel (f, false)

/-- The `n` bytes of the sprite at `I` (R36, R96). -/
def State.sprite (s : State) (n : Nat) : List Byte := (List.range n).map fun r => s.byteAt (s.ea r)

/-- The cells a `DXYN` toggles, its coordinates latched before `VF` is written (R63, R96). -/
def State.drawn (s : State) (x y : Reg) (n : Height) : List Pixel :=
  spritePixels (s.reg x) (s.reg y) 0 (s.sprite n.val)

/-- `DXYN` DRW (R96). -/
def execDrw (x y : Reg) (n : Height) (s : State) : Result :=
  withBlock s n.val fun s =>
    ((s.setScreen (blit s.fb (s.drawn x y n)).1).setReg regF
      (collisionFlag (blit s.fb (s.drawn x y n)).2)).advance

end Sys2Proof.Machine
end

