-- ==== Sys2Proof/Machine/IndexMemory.lean ====
section
/-! DEFINITION. The index register and memory transfers: `ANNN`, `FX1E`, `FX65`
(43_index_and_memory.md) and the gap instructions `FX29`, `FX33`, `FX55` (48_gap_fill.md
section 6). No transfer changes `I` (R93). -/

namespace Sys2Proof.Machine

/-- `ANNN` LD I (R90). -/
def execLdI (nnn : Addr) (s : State) : Result := .next (s.setIndex nnn).advance

/-- `FX1E` ADD I (R91): wraps modulo 4096, no flag. -/
def execAddI (x : Reg) (s : State) : Result := .next (s.setIndex (indexPlus s.i (s.reg x))).advance

/-- `FX29` LD F (R118). -/
def execLdFVx (x : Reg) (s : State) : Result := .next (s.setIndex (glyphAddr (s.reg x))).advance

/-- `FX33` LD B (R119). -/
def execLdBVx (x : Reg) (s : State) : Result :=
  withBlock s 3 fun s => (s.store (s.ea 0) (bcdDigits (s.reg x))).advance

/-- `FX55` LD [I] (R120): `V0` to `VX` at `I` to `I + X`. -/
def execLdMemVx (x : Reg) (s : State) : Result :=
  withBlock s (blockLength x) fun s => (s.store (s.ea 0) ((regsUpTo x).map s.reg)).advance

/-- `FX65` LD VX (R92): the bytes at `I` to `I + X` to `V0` to `VX`. -/
def execLdVxMem (x : Reg) (s : State) : Result :=
  withBlock s (blockLength x) fun s => (s.loadRegs (s.ea 0) (regsUpTo x)).advance

end Sys2Proof.Machine
end

