-- ==== Sys2Proof/Machine/Keypad.lean ====
section
/-! DEFINITION. The keypad: `EX9E`, `EXA1` (45_keypad.md) and the gap instruction `FX0A`
(48_gap_fill.md section 5). The keypad is read only. -/

namespace Sys2Proof.Machine

/-- `EX9E` SKP (R100). -/
def execSkp (x : Reg) (s : State) : Result := withKey s x fun k => s.skipIf (s.pressed k)

/-- `EXA1` SKNP (R101). -/
def execSknp (x : Reg) (s : State) : Result := withKey s x fun k => s.skipIf (!s.pressed k)

/-- `FX0A` LD VX, K (R117): the wait is a `pc` that does not advance. -/
def execLdVxK (x : Reg) (s : State) : Result :=
  match s.lowestKey with
  | some k => .next (s.setReg x (BitVec.ofNat 8 k.val)).advance
  | none => .next s

end Sys2Proof.Machine
end

