-- ==== Sys2Proof/Machine/Timers.lean ====
section
/-! DEFINITION. Timer access: `FX07`, `FX15`, `FX18` (46_timer_access.md). The tick of the same
cycle is `complete` in Ops.lean. -/

namespace Sys2Proof.Machine

/-- `FX07` LD VX, DT (R105). -/
def execLdVxDt (x : Reg) (s : State) : Result := .next (s.setReg x s.dt).advance

/-- `FX15` LD DT, VX (R106). -/
def execLdDtVx (x : Reg) (s : State) : Result := .next (s.setDelay (s.reg x)).advance

/-- `FX18` LD ST, VX (R107). -/
def execLdStVx (x : Reg) (s : State) : Result := .next (s.setSound (s.reg x)).advance

end Sys2Proof.Machine
end

