-- ==== Sys2Proof/Machine/Step.lean ====
section
/-! DEFINITION. The one step of the core, `Cycle` (40_cycle.md R60, R67), at any value of the
parameters and at the values taken. -/

namespace Sys2Proof.Machine

/-- `Cycle` (R67): fetch and decode, execute, tick and report. -/
def cycle (c : Config) (s : State) : Host.Outcome State Fault Refusal :=
  match fetch c s with
  | .ended t => .next t
  | .run ins =>
    match exec ins s with
    | .next t => .next (complete c t)
    | .fault r => .fault r
    | .refused r => .refused r

/-- `Cycle` at the parameters of R5. -/
def step (s : State) : Host.Outcome State Fault Refusal := cycle config s

/-- `s` with a table word stored where the next fetch reads, running and with a `pc` that can be
fetched at (assumption log 31). -/
def State.withFetchWord (s : State) (nbits w : Nat) : State := s.placeWord (tableWord nbits w)

end Sys2Proof.Machine
end

