-- ==== Sys2Proof/Machine/HostOps.lean ====
section
/-! DEFINITION. The second agent: the operations of the host between cycles (49_host_operations.md),
which of them the interface permits when (R133), and a run as a sequence of cycles and host
operations (R125). -/

namespace Sys2Proof.Machine

/-- What `LoadROM` returns (R127, R144). -/
inductive LoadResult where
  | loaded
  | romTooLarge (n : Nat)
deriving DecidableEq, Repr

/-- The machine right after `Reset` at any parameters (R160): the bytes of `FONT` stand at `FONT_BASE`
0 (R4, R33). At the parameters taken this is `State.reset` (`State.resetAt_config`). -/
def State.resetAt (c : Config) : State := State.reset.store 0 c.font.toList

/-- `Reset` (R126, R160). The counter of free values is no element of the machine and is kept, so
that the bytes drawn after a `Reset` are not those drawn before it (assumption log 4). -/
def State.hostReset (c : Config) (s : State) : State := { State.resetAt c with draws := s.draws }

/-- `LoadROM(bytes)` (R127): nothing is loaded where the ROM is larger than `ROM_MAX` = 3584 bytes
(R4). -/
def State.loadRom (s : State) (bytes : List Byte) : LoadResult × State :=
  if 3584 < bytes.length then (.romTooLarge bytes.length, s)
  else (.loaded, { s.store 0x200 bytes with romLoaded := true })

/-- `SetKey(k, pressed)` (R128). -/
def State.setKey (s : State) (k : Key) (pressed : Bool) : State :=
  { s with key := s.key.set k pressed }

/-- `ClearRedraw` (R129). -/
def State.clearRedraw (s : State) : State := { s with redraw := false }

/-- `HostSkip`: `pc <- pc + 2` (R130). -/
def State.hostSkip (s : State) : State := s.advance

/-- `ObserveFramebuffer`: the 2048 cells in cell order (R131). -/
def State.observeFramebuffer (s : State) : List Bool := (List.range 2048).map s.cell

/-- `ObserveRedraw` (R131). -/
def State.observeRedraw (s : State) : Bool := s.redraw

/-- The outcome and the `tone` of the last `Cycle` (R131). -/
def State.observeOutcome (s : State) : Option (CycleOutcome × Bool) := s.outcome.map (·, s.tone)

/-- The host's operations that change the core (R125). -/
inductive HostOp where
  | reset
  | loadRom (bytes : List Byte)
  | setKey (k : Key) (pressed : Bool)
  | clearRedraw
  | hostSkip
  /-- only where `TIMER_TICK_MODE` is `host` (R132) -/
  | timerTick
deriving DecidableEq, Repr

/-- What an operation returns to the host (R125). -/
inductive HostReply where
  | done
  | load (r : LoadResult)
  | tone (b : Bool)
deriving DecidableEq, Repr

/-- Is this right after an `UnknownOpcode` report (R22, R130, decision D21): did the most recent `Cycle`
return one, and has no `HostSkip` moved `pc` off the reported word since (assumption log 24)? -/
def State.reportPending (s : State) : Bool :=
  match s.outcome with
  | some (.unknownOpcode p _) => s.pc = p
  | some .ok | some (.fatal _) | some (.stillHalted _) | none => false

/-- The moves the interface has (R130, R132, R133): `LoadROM` after `Reset` and before the first
`Cycle`, at most once; `HostSkip` only right after a report; `TimerTick` only in mode `host`. -/
def HostOp.permitted (c : Config) (s : State) : HostOp → Bool
  | .reset | .setKey _ _ | .clearRedraw => true
  | .loadRom _ => s.outcome.isNone && !s.romLoaded
  | .hostSkip => s.reportPending
  | .timerTick => c.tickMode = .host

/-- What an operation returns and the state it leaves. -/
def HostOp.act (c : Config) (s : State) : HostOp → HostReply × State
  | .reset => (.done, s.hostReset c)
  | .loadRom bytes => (.load (s.loadRom bytes).1, (s.loadRom bytes).2)
  | .setKey k b => (.done, s.setKey k b)
  | .clearRedraw => (.done, s.clearRedraw)
  | .hostSkip => (.done, s.hostSkip)
  | .timerTick => (.tone s.tickTone, s.tick)

/-- One element of a run (R125): a `Cycle` or a host operation. -/
inductive Event where
  | cycle
  | host (op : HostOp)
deriving DecidableEq, Repr

/-- The state after one element; a move the interface does not have leads nowhere (R133). -/
def Event.next (c : Config) (s : State) : Event → Option State
  | .cycle =>
    match Sys2Proof.Machine.cycle c s with
    | .next t => some t
    | .fault _ => none
    | .refused _ => none
  | .host op => if op.permitted c s then some (op.act c s).2 else none

/-- The state after a run (R125, R161). -/
def runEvents (c : Config) : List Event → State → Option State
  | [], s => some s
  | e :: es, s =>
    match e.next c s with
    | some t => runEvents c es t
    | none => none

/-! ### The code numbers of R136 -/

/-- Codes 1 to 5. -/
def Cause.code : Cause → Nat
  | .fetchOutOfBounds _ => 1
  | .memoryOutOfBounds _ => 2
  | .stackOverflow => 3
  | .stackUnderflow => 4
  | .keyIndexOutOfRange _ => 5

/-- Code 6, reserved (R143). -/
def Fault.code : Fault → Nat
  | .registerIndexOutOfRange => 6

/-- The code of the failure a cycle reports; a halted core repeats its cause (R136, R145). -/
def CycleOutcome.code : CycleOutcome → Option Nat
  | .ok => none
  | .unknownOpcode _ _ => some 16
  | .fatal c => some c.code
  | .stillHalted c => some c.code

/-- Code 17 (R144). -/
def LoadResult.code : LoadResult → Option Nat
  | .loaded => none
  | .romTooLarge _ => some 17

end Sys2Proof.Machine
end

