-- ==== Sys2Proof/Safety.lean ====
section
/-! DEFINITION. The terms the claims use: the frame of an instruction, the invariants of the core and
of the whole system, the opcode map of 30_encoding.md R50 and R51 as data. -/

namespace Sys2Proof.Machine

/-- A part of the state, one for each field. -/
inductive Part where
  | mem | v | i | pc | stack | sp | dt | st | key | fb | redraw | runState
  | outcome | tone | draws | romLoaded
deriving DecidableEq, Repr

/-- `t` holds in this part what `s` holds; for memory, every byte reads the same. -/
def Part.Same (s t : State) : Part → Prop
  | .mem => ∀ a, t.byteAt a = s.byteAt a
  | .v => ∀ r, t.reg r = s.reg r
  | .i => t.i = s.i
  | .pc => t.pc = s.pc
  | .stack => t.stack = s.stack
  | .sp => t.sp = s.sp
  | .dt => t.dt = s.dt
  | .st => t.st = s.st
  | .key => t.key = s.key
  | .fb => t.fb = s.fb
  | .redraw => t.redraw = s.redraw
  | .runState => t.runState = s.runState
  | .outcome => t.outcome = s.outcome
  | .tone => t.tone = s.tone
  | .draws => t.draws = s.draws
  | .romLoaded => t.romLoaded = s.romLoaded

/-- Every part but those listed is unchanged (00_scope.md R8). -/
def KeepsAllBut (changed : List Part) (s t : State) : Prop := ∀ p, p ∉ changed → p.Same s t

/-- Every register but those for which `dest` holds is unchanged. -/
def KeepsRegsBut (dest : Reg → Prop) (s t : State) : Prop := ∀ r, ¬ dest r → t.reg r = s.reg r

/-- The instruction advances `pc` by 2 and changes besides it only the parts listed (R64). -/
def Advances (changed : List Part) (s t : State) : Prop :=
  t.pc = s.pc + 2 ∧ KeepsAllBut (.pc :: changed) s t

/-- The instruction advances `pc` by 2 and writes no register but those `dest` names. -/
def AdvancesWritingRegs (dest : Reg → Prop) (s t : State) : Prop :=
  KeepsRegsBut dest s t ∧ Advances [.v] s t

/-- The instruction changes `pc` and nothing else. -/
def ChangesPcTo (p : Word) (s t : State) : Prop := t.pc = p ∧ KeepsAllBut [.pc] s t

/-- The instruction raises a fatal fault: only `run_state` changes (60_exceptions.md R139). -/
def HaltsWith (c : Cause) (s t : State) : Prop :=
  t.runState = .halted c ∧ KeepsAllBut [.runState] s t

/-- The registers an instruction may write, as its destination or as its flag (10_state.md R11,
R12). -/
def MayWriteReg (q : Reg) : Instr → Prop
  | .ldImm x _ | .addImm x _ | .ldReg x _ | .orReg x _ | .andReg x _ | .xorReg x _ | .rnd x _
  | .ldVxDt x | .ldVxK x => q = x
  | .addReg x _ | .subReg x _ | .subnReg x _ | .shr x _ | .shl x _ => q = x ∨ q = regF
  | .drw _ _ _ => q = regF
  | .ldVxMem x => q ≤ x
  | .cls | .ret | .jp _ | .call _ | .seImm _ _ | .sneImm _ _ | .seReg _ _ | .sneReg _ _ | .ldI _
  | .jpV0 _ | .skp _ | .sknp _ | .ldDtVx _ | .ldStVx _ | .addI _ | .ldFVx _ | .ldBVx _
  | .ldMemVx _ => False

/-- A set bit of the sprite falls on cell `c`: row `row` of the sprite is the byte at `I + row`, its
bit 7 is column 0, and both axes wrap (44_display.md R96). -/
def SpriteCovers (s : State) (x y : Reg) (n : Height) (c : Nat) : Prop :=
  ∃ row, row < n.val ∧ ∃ col, col < 8 ∧ (s.byteAt (s.ea row)).getLsbD (7 - col) = true ∧
    c = ((s.reg x).toNat + col) % 64 + 64 * (((s.reg y).toNat + row) % 32)

/-- What a halted core still shows of its fault: a fault is precise, so the condition that raised it
holds in the halted state (60_exceptions.md R136 to R142). No block access of R138 reaches beyond
`I + 15`. -/
def CauseShown (s : State) : Cause → Prop
  | .fetchOutOfBounds p => p = s.pc ∧ 4094 < p.toNat
  | .memoryOutOfBounds a => a = 4096 ∧ 4095 < s.i.toNat + 15
  | .stackOverflow => s.sp = 16
  | .stackUnderflow => s.sp = 0
  | .keyIndexOutOfRange b => 15 < b.toNat ∧ ∃ x, s.reg x = b

/-- The outputs of the last cycle agree with `run_state` (R66, R139). -/
def OutcomeShown (c : Config) (s : State) : Option CycleOutcome → Prop
  | none => s.runState = .running
  | some .ok => s.runState = .running
  | some (.unknownOpcode _ w) => s.runState = .running ∧ decodeWord c.gapFill w = .unknown w
  | some (.fatal cause) => s.runState = .halted cause
  | some (.stillHalted cause) => s.runState = .halted cause

/-- The invariant of the core at parameters `c`: kept by every cycle, whatever the host did before. -/
structure State.CoreInv (s : State) (c : Config) : Prop where
  /-- memory is in canonical form -/
  canonical : Memory.wf s.mem
  /-- every stack entry is a return address, at most 4094 + 2 (R15, R72) -/
  stackBound : ∀ k : Fin 16, s.stack[k].toNat ≤ 4096
  /-- the largest `pc` any rule gives, so that its 16 bits never wrap (R5, R13) -/
  pcBound : s.pc.toNat ≤ 0x10FE
  /-- a fatal fault is precise -/
  cause : ∀ cause, s.runState = .halted cause → CauseShown s cause
  /-- the reported outcome is the true one -/
  outcome : OutcomeShown c s s.outcome
  /-- `tone` is 1 only with outcome `Ok` and with `ST` at 0 (R66, R151) -/
  tone : s.tone = true → s.outcome = some .ok ∧ s.st = 0

/-- The invariant of the whole system: kept by every cycle and by every permitted host operation. -/
structure State.Inv (s : State) (c : Config) : Prop where
  core : s.CoreInv c
  /-- a report names an address that was fetched at, and `pc` is there or one `HostSkip` past it
  (R130, R141) -/
  report : ∀ p w, s.outcome = some (.unknownOpcode p w) →
    p.toNat ≤ 4094 ∧ (s.pc = p ∨ s.pc = p + 2)

/-- A run that leads somewhere and does not end in a fatal fault (R139: a halted state is never a
good final state). -/
def SafeRun (c : Config) (es : List Event) (s : State) : Prop :=
  ∃ t, runEvents c es s = some t ∧ t.runState = .running

/-! ### The opcode map as data -/

/-- A row of R50 or R51: `w` selects it when `w & mask = value`. -/
structure Row where
  mask  : Word
  value : Word
  gap   : Bool
deriving DecidableEq, Repr

/-- Does the word select the row, with this value of `GAP_FILL` (R50, R51)? -/
def Row.selects (gapFill : Bool) (w : Word) (r : Row) : Bool :=
  (gapFill || !r.gap) && (w &&& r.mask == r.value)

/-- The rows of R50, in its order. -/
def sourceRows : List Row :=
  [⟨0xFFFF, 0x00E0, false⟩, ⟨0xFFFF, 0x00EE, false⟩, ⟨0xF000, 0x1000, false⟩, ⟨0xF000, 0x2000, false⟩] ++
  [⟨0xF000, 0x3000, false⟩, ⟨0xF000, 0x4000, false⟩, ⟨0xF00F, 0x5000, false⟩, ⟨0xF000, 0x6000, false⟩] ++
  [⟨0xF000, 0x7000, false⟩, ⟨0xF00F, 0x8000, false⟩, ⟨0xF00F, 0x8002, false⟩, ⟨0xF00F, 0x8003, false⟩] ++
  [⟨0xF00F, 0x8004, false⟩, ⟨0xF00F, 0x8005, false⟩, ⟨0xF00F, 0x8006, false⟩, ⟨0xF000, 0xA000, false⟩] ++
  [⟨0xF000, 0xD000, false⟩, ⟨0xF0FF, 0xE09E, false⟩, ⟨0xF0FF, 0xE0A1, false⟩, ⟨0xF0FF, 0xF007, false⟩] ++
  [⟨0xF0FF, 0xF015, false⟩, ⟨0xF0FF, 0xF018, false⟩, ⟨0xF0FF, 0xF01E, false⟩, ⟨0xF0FF, 0xF065, false⟩]

/-- The rows of R51, in its order. -/
def gapRows : List Row :=
  [⟨0xF00F, 0x8001, true⟩, ⟨0xF00F, 0x8007, true⟩, ⟨0xF00F, 0x800E, true⟩, ⟨0xF00F, 0x9000, true⟩] ++
  [⟨0xF000, 0xB000, true⟩, ⟨0xF000, 0xC000, true⟩, ⟨0xF0FF, 0xF00A, true⟩, ⟨0xF0FF, 0xF029, true⟩] ++
  [⟨0xF0FF, 0xF033, true⟩, ⟨0xF0FF, 0xF055, true⟩]

/-- The opcode map (R50, R51). -/
def opcodeMap : List Row := sourceRows ++ gapRows

/-- The row of an instruction: the place of its pattern in `opcodeMap`. -/
def rowOf : Instr → Row
  | .cls => ⟨0xFFFF, 0x00E0, false⟩
  | .ret => ⟨0xFFFF, 0x00EE, false⟩
  | .jp _ => ⟨0xF000, 0x1000, false⟩
  | .call _ => ⟨0xF000, 0x2000, false⟩
  | .seImm _ _ => ⟨0xF000, 0x3000, false⟩
  | .sneImm _ _ => ⟨0xF000, 0x4000, false⟩
  | .seReg _ _ => ⟨0xF00F, 0x5000, false⟩
  | .ldImm _ _ => ⟨0xF000, 0x6000, false⟩
  | .addImm _ _ => ⟨0xF000, 0x7000, false⟩
  | .ldReg _ _ => ⟨0xF00F, 0x8000, false⟩
  | .orReg _ _ => ⟨0xF00F, 0x8001, true⟩
  | .andReg _ _ => ⟨0xF00F, 0x8002, false⟩
  | .xorReg _ _ => ⟨0xF00F, 0x8003, false⟩
  | .addReg _ _ => ⟨0xF00F, 0x8004, false⟩
  | .subReg _ _ => ⟨0xF00F, 0x8005, false⟩
  | .shr _ _ => ⟨0xF00F, 0x8006, false⟩
  | .subnReg _ _ => ⟨0xF00F, 0x8007, true⟩
  | .shl _ _ => ⟨0xF00F, 0x800E, true⟩
  | .sneReg _ _ => ⟨0xF00F, 0x9000, true⟩
  | .ldI _ => ⟨0xF000, 0xA000, false⟩
  | .jpV0 _ => ⟨0xF000, 0xB000, true⟩
  | .rnd _ _ => ⟨0xF000, 0xC000, true⟩
  | .drw _ _ _ => ⟨0xF000, 0xD000, false⟩
  | .skp _ => ⟨0xF0FF, 0xE09E, false⟩
  | .sknp _ => ⟨0xF0FF, 0xE0A1, false⟩
  | .ldVxDt _ => ⟨0xF0FF, 0xF007, false⟩
  | .ldVxK _ => ⟨0xF0FF, 0xF00A, true⟩
  | .ldDtVx _ => ⟨0xF0FF, 0xF015, false⟩
  | .ldStVx _ => ⟨0xF0FF, 0xF018, false⟩
  | .addI _ => ⟨0xF0FF, 0xF01E, false⟩
  | .ldFVx _ => ⟨0xF0FF, 0xF029, true⟩
  | .ldBVx _ => ⟨0xF0FF, 0xF033, true⟩
  | .ldMemVx _ => ⟨0xF0FF, 0xF055, true⟩
  | .ldVxMem _ => ⟨0xF0FF, 0xF065, false⟩

end Sys2Proof.Machine
end

