-- ==== Sys2Proof/Certificates/Slice0/Obligations.lean ====
section
/-! DEFINITION. The statements for the provers. Each docstring names the rules of spec/ a statement
formalises; where it rests on a choice the spec marks as its own, it names the decision. -/

open Sys2Proof Sys2Proof.Machine

/-! ### Encoding (30_encoding.md) -/

/-- Every well-formed instruction, with every operand value, is what its two bytes decode to, and the
bytes after it are left over (R35, R45 to R51). -/
def Obligations.DecodeOfEncode : Prop :=
  ∀ (g : Bool) (ins : Instr) (rest : List Byte), ins.wellFormed g = true →
    decode g (encodeBytes ins ++ rest) = .ok (ins, rest)

/-- Whatever decodes is well formed and was the encoding of what it decodes to: no bit of a word is
dropped, the ignored field `Y` of `8XY6` and `8XYE` included (R46, R49, R53). -/
def Obligations.EncodeOfDecode : Prop :=
  ∀ (g : Bool) (bytes rest : List Byte) (ins : Instr), decode g bytes = .ok (ins, rest) →
    ins.wellFormed g = true ∧ bytes = encodeBytes ins ++ rest

/-- The decode algorithm of R49 agrees with the opcode map of R50 and R51: a word decodes exactly
where a row selects it, that row is the row of the instruction, and no word selects two rows. -/
def Obligations.DecodeFollowsOpcodeMap : Prop :=
  ∀ (g : Bool) (w : Word),
    ((∃ ins, decodeWord g w = .instr ins) ↔ ∃ r ∈ opcodeMap, r.selects g w = true) ∧
    (∀ ins, decodeWord g w = .instr ins → (rowOf ins).selects g w = true) ∧
    (∀ r q, r ∈ opcodeMap → q ∈ opcodeMap →
      r.selects g w = true → q.selects g w = true → r = q)

/-- The complete list of unknown words with `GAP_FILL = true` (R52, the table). -/
def Obligations.UnknownWordsAreThoseListed : Prop :=
  ∀ w : Word, decodeWord true w = .unknown w ↔
    (classOf w = 0x0#4 ∧ w ≠ 0x00E0#16 ∧ w ≠ 0x00EE#16) ∨
    (classOf w = 0x5#4 ∧ lowNibble w ≠ 0x0#4) ∨
    (classOf w = 0x8#4 ∧ lowNibble w ∈ [0x8#4, 0x9#4, 0xA#4, 0xB#4, 0xC#4, 0xD#4, 0xF#4]) ∨
    (classOf w = 0x9#4 ∧ lowNibble w ≠ 0x0#4) ∨
    (classOf w = 0xE#4 ∧ fieldNN w ∉ [0x9E#8, 0xA1#8]) ∨
    (classOf w = 0xF#4 ∧
      fieldNN w ∉ [0x07#8, 0x0A#8, 0x15#8, 0x18#8, 0x1E#8, 0x29#8, 0x33#8, 0x55#8, 0x65#8])

/-- `GAP_FILL = false` takes away exactly the ten gap instructions and changes no other word (R51,
R110; decision D13). -/
def Obligations.GapFillOnlyAddsGapInstructions : Prop :=
  ∀ (w : Word) (ins : Instr),
    decodeWord false w = .instr ins ↔ decodeWord true w = .instr ins ∧ ins.isGap = false

/-- Words written out from the patterns of R50 and R51, one or more for each family; the first two
are the source's own examples (R46). The gap words 0xF155 and 0xC10F decode by decision D13
(assumption log 18); 0x01E0 and 0x5121 are refused because patterns are matched in full, decision D12
(assumption log 17). -/
def Obligations.SpecWordsDecode : Prop :=
  decode true [0xA2, 0x2A] = .ok (.ldI 0x22A, []) ∧ decode true [0x60, 0x0A] = .ok (.ldImm 0 0x0A, []) ∧
  decode true [0x00, 0xE0] = .ok (.cls, []) ∧ decode true [0x12, 0x34] = .ok (.jp 0x234, []) ∧
  decode true [0x8A, 0xB6] = .ok (.shr 10 11, []) ∧ decode true [0xD0, 0x12] = .ok (.drw 0 1 2, []) ∧
  decode true [0xE4, 0x9E] = .ok (.skp 4, []) ∧ decode true [0xF3, 0x18] = .ok (.ldStVx 3, []) ∧
  decode true [0xF1, 0x55] = .ok (.ldMemVx 1, []) ∧ decode true [0xC1, 0x0F] = .ok (.rnd 1 0x0F, []) ∧
  decode true [0x01, 0xE0] = .error (.unknownOpcode 0x01E0) ∧
  decode true [0x51, 0x21] = .error (.unknownOpcode 0x5121)

/-! ### The cycle (40_cycle.md, 60_exceptions.md) -/

/-- A step of a running core runs the instruction that the two bytes at `pc` decode to: it is `exec`
of it, then, if no fault was raised, one tick of both timers, and the outcome (R61, R63, R65, R67). -/
def Obligations.StepRunsDecodedInstruction : Prop :=
  ∀ (s : State) (ins : Instr), s.runState = .running → s.pc.toNat ≤ 4094 →
    decode gapFillTaken [s.byteAt s.pc.toNat, s.byteAt (s.pc.toNat + 1)] = .ok (ins, []) →
    ∃ t u, exec ins s = .next t ∧ step s = .next u ∧
      (t.runState = .running →
        u.dt.toNat = t.dt.toNat - 1 ∧ u.st.toNat = t.st.toNat - 1 ∧
        u.outcome = some .ok ∧ (u.tone = true ↔ t.st.toNat = 1) ∧
        KeepsAllBut [.dt, .st, .outcome, .tone] t u) ∧
      (∀ c, t.runState = .halted c →
        u.outcome = some (.fatal c) ∧ u.tone = false ∧ KeepsAllBut [.outcome, .tone] t u)

/-- The fetch: a `pc` above 4094 is a fatal fault that changes only `run_state` and the outputs; any
other `pc` gives the big-endian word of the bytes at `pc` and `pc + 1`, and no fetch fault (R61). -/
def Obligations.FetchReadsBigEndianOrFaults : Prop :=
  ∀ s : State, s.runState = .running →
    (4094 < s.pc.toNat → ∃ t, step s = .next t ∧ t.runState = .halted (.fetchOutOfBounds s.pc) ∧
      t.outcome = some (.fatal (.fetchOutOfBounds s.pc)) ∧ t.tone = false ∧
      KeepsAllBut [.runState, .outcome, .tone] s t) ∧
    (s.pc.toNat ≤ 4094 →
      s.fetchWord.toNat = 256 * (s.byteAt s.pc.toNat).toNat + (s.byteAt (s.pc.toNat + 1)).toNat ∧
      ∀ t p, step s = .next t → t.runState ≠ .halted (.fetchOutOfBounds p))

/-- A core whose word at `pc` is unknown reports it, with `pc` and the word, changes nothing and does
not tick, in this cycle and in every later one (R62, R141, R168; decision D9). -/
def Obligations.UnknownOpcodeReportsForEver : Prop :=
  ∀ (n : Nat) (s : State) (w : Word), s.runState = .running → s.pc.toNat ≤ 4094 →
    decodeWord gapFillTaken s.fetchWord = .unknown w →
    ∃ t, Sys2Proof.core.run (n + 1) s = .next t ∧ t.outcome = some (.unknownOpcode s.pc w) ∧
      w = s.fetchWord ∧ t.tone = false ∧ KeepsAllBut [.outcome, .tone] s t

/-- A halted core stays halted with the same cause through any number of cycles, nothing but the
outputs changes, and no run of cycles and host operations leads back to a running core without a
`Reset` (R20, R139, R148; decision D8). -/
def Obligations.HaltedCoreStaysHalted : Prop :=
  ∀ (s : State) (c : Cause), s.runState = .halted c →
    (∀ n : Nat, ∃ t, Sys2Proof.core.run (n + 1) s = .next t ∧ t.outcome = some (.stillHalted c) ∧
      t.tone = false ∧ KeepsAllBut [.outcome, .tone] s t) ∧
    ∀ (cfg : Config) (es : List Event), Event.host .reset ∉ es → ¬ SafeRun cfg es s

/-- A fatal fault is precise: the cycle that raises one changes nothing but `run_state` and the
outputs, and reports it (R139; decision D8). -/
def Obligations.FatalFaultIsPrecise : Prop :=
  ∀ (s t : State) (c : Cause), s.runState = .running → step s = .next t → t.runState = .halted c →
    t.outcome = some (.fatal c) ∧ t.tone = false ∧ KeepsAllBut [.runState, .outcome, .tone] s t

/-- Each instruction raises its one fault exactly on its condition, and the others raise none (R136,
R138, R140, R142, R145; decisions D8, D11, D18). -/
def Obligations.EachInstructionFaultsExactlyWhen : Prop :=
  ∀ (ins : Instr) (s t : State), s.runState = .running → exec ins s = .next t →
    t.runState = match ins with
      | .ret => if s.sp.val = 0 then .halted .stackUnderflow else .running
      | .call _ => if s.sp.val = 16 then .halted .stackOverflow else .running
      | .skp x | .sknp x =>
        if 15 < (s.reg x).toNat then .halted (.keyIndexOutOfRange (s.reg x)) else .running
      | .drw _ _ n =>
        if 0 < n.val ∧ 4095 < s.i.toNat + n.val - 1 then .halted (.memoryOutOfBounds 4096) else .running
      | .ldVxMem x | .ldMemVx x =>
        if 4095 < s.i.toNat + x.val then .halted (.memoryOutOfBounds 4096) else .running
      | .ldBVx _ => if 4095 < s.i.toNat + 2 then .halted (.memoryOutOfBounds 4096) else .running
      | _ => .running

/-- `Cycle` always answers a next state and an outcome, at every value of the parameters: it never
waits and never stops the model (R60, R66, R69). -/
def Obligations.CycleAlwaysAnswers : Prop :=
  ∀ (c : Config) (s : State), ∃ t o, cycle c s = .next t ∧ t.outcome = some o

/-- The one outcome of a cycle, in the order of detection: halted already, the fetch, the decoding,
the instruction (R66, R145; decision D29). -/
def Obligations.OutcomeFollowsPriority : Prop :=
  ∀ s t : State, step s = .next t →
    (∀ c, s.runState = .halted c → t.outcome = some (.stillHalted c)) ∧
    (s.runState = .running → 4094 < s.pc.toNat →
      t.outcome = some (.fatal (.fetchOutOfBounds s.pc))) ∧
    (∀ w, s.runState = .running → s.pc.toNat ≤ 4094 →
      decodeWord gapFillTaken s.fetchWord = .unknown w → t.outcome = some (.unknownOpcode s.pc w)) ∧
    (∀ ins, s.runState = .running → s.pc.toNat ≤ 4094 →
      decodeWord gapFillTaken s.fetchWord = .instr ins →
      (t.outcome = some .ok ∧ t.runState = .running) ∨
        ∃ c, t.outcome = some (.fatal c) ∧ t.runState = .halted c)

/-- One tick at the end of every `Ok` cycle: each timer ends one below what the instruction left in
it, never below 0, and `tone` is 1 exactly where `ST` went from 1 to 0. `FX15` and `FX18` so leave
`V[X] - 1` (R65, R105 to R107, R150, R151; decisions D9, D10). -/
def Obligations.TimersTickOncePerOkCycle : Prop :=
  ∀ (s t : State) (ins : Instr), s.runState = .running → s.pc.toNat ≤ 4094 →
    decodeWord gapFillTaken s.fetchWord = .instr ins → step s = .next t → t.outcome = some .ok →
    (∀ x, ins = .ldDtVx x → t.dt.toNat = (s.reg x).toNat - 1) ∧
    ((∀ x, ins ≠ .ldDtVx x) → t.dt.toNat = s.dt.toNat - 1) ∧
    (∀ x, ins = .ldStVx x →
      t.st.toNat = (s.reg x).toNat - 1 ∧ (t.tone = true ↔ (s.reg x).toNat = 1)) ∧
    ((∀ x, ins ≠ .ldStVx x) →
      t.st.toNat = s.st.toNat - 1 ∧ (t.tone = true ↔ s.st.toNat = 1))

/-- A program that jumps to itself spins for ever: after any number of cycles only the timers have
changed, each lower by one a cycle and never below 0 (R69, R150; decisions D10, D24). -/
def Obligations.SelfJumpSpinsWhileTimersRun : Prop :=
  ∀ (n : Nat) (s : State) (nnn : Addr), s.runState = .running → s.pc.toNat ≤ 4094 →
    s.pc.toNat = nnn.toNat → decodeWord gapFillTaken s.fetchWord = .instr (.jp nnn) →
    ∃ t, Sys2Proof.core.run n s = .next t ∧ t.dt.toNat = s.dt.toNat - n ∧
      t.st.toNat = s.st.toNat - n ∧ KeepsAllBut [.dt, .st, .outcome, .tone] s t

/-- `pc` after each instruction (R64): a jump sets it, a call sets it and pushes `pc + 2`, a return
takes the popped entry, skips add 4 or 2, `FX0A` adds 2 or nothing, everything else adds 2; a fault
and an unknown opcode leave it. -/
def Obligations.ProgramCounterTable : Prop :=
  (∀ (ins : Instr) (s t : State), s.runState = .running → exec ins s = .next t →
    (t.runState ≠ .running → t.pc = s.pc) ∧
    (t.runState = .running → match ins with
      | .jp nnn => t.pc.toNat = nnn.toNat
      | .call nnn => t.pc.toNat = nnn.toNat ∧
          ∀ k : Fin 16, s.sp.val = k.val → t.stack[k] = s.pc + 2 ∧ t.sp.val = k.val + 1
      | .ret => ∀ k : Fin 16, s.sp.val = k.val + 1 → t.pc = s.stack[k]
      | .jpV0 nnn => t.pc.toNat = nnn.toNat + (s.reg 0).toNat
      | .seImm x nn => t.pc = if s.reg x = nn then s.pc + 4 else s.pc + 2
      | .sneImm x nn => t.pc = if s.reg x ≠ nn then s.pc + 4 else s.pc + 2
      | .seReg x y => t.pc = if s.reg x = s.reg y then s.pc + 4 else s.pc + 2
      | .sneReg x y => t.pc = if s.reg x ≠ s.reg y then s.pc + 4 else s.pc + 2
      | .skp x => ∀ k : Key, (s.reg x).toNat = k.val →
          t.pc = if s.pressed k = true then s.pc + 4 else s.pc + 2
      | .sknp x => ∀ k : Key, (s.reg x).toNat = k.val →
          t.pc = if s.pressed k = false then s.pc + 4 else s.pc + 2
      | .ldVxK _ => t.pc = if ∃ k, s.pressed k = true then s.pc + 2 else s.pc
      | _ => t.pc = s.pc + 2)) ∧
  (∀ s t : State, step s = .next t → t.outcome ≠ some .ok → t.pc = s.pc)

/-! ### Whole-machine rules -/

/-- What the core may write besides its own instructions' effects: it never writes the keypad, never
lowers `redraw`, never touches the record of the loader, and `run_state` goes only from running to
halted (R17, R19, R20, R23; decision D8 for the halt). -/
def Obligations.CoreWritesOnlyItsOwnState : Prop :=
  ∀ s t : State, step s = .next t →
    t.key = s.key ∧ (s.redraw = true → t.redraw = true) ∧ t.romLoaded = s.romLoaded ∧
    (t.runState = s.runState ∨ (s.runState = .running ∧ ∃ c, t.runState = .halted c))

/-- A step changes a byte of memory only where it runs `FX33` with the byte at `I`, `I + 1` or
`I + 2`, or `FX55` with the byte at `I` to `I + X` (R30, R44; decisions D13, D17). -/
def Obligations.OnlyStoresChangeMemory : Prop :=
  ∀ (s t : State) (a : Nat), step s = .next t → t.byteAt a ≠ s.byteAt a →
    ∃ ins, decodeWord gapFillTaken s.fetchWord = .instr ins ∧
      ((∃ x, ins = .ldBVx x ∧ s.i.toNat ≤ a ∧ a ≤ s.i.toNat + 2) ∨
        ∃ x, ins = .ldMemVx x ∧ s.i.toNat ≤ a ∧ a ≤ s.i.toNat + x.val)

/-- With `GAP_FILL = false` no cycle changes memory, at any values of the other parameters (R44; decision D17). -/
def Obligations.NoStoreWithoutGapFill : Prop :=
  ∀ (c : Config) (s t : State), c.gapFill = false → cycle c s = .next t → t.mem = s.mem

/-- Only `00E0` and `DXYN` change the framebuffer or raise `redraw` (R18, R19). -/
def Obligations.OnlyDisplayInstructionsChangeScreen : Prop :=
  ∀ s t : State, step s = .next t → t.fb ≠ s.fb ∨ t.redraw ≠ s.redraw →
    t.redraw = true ∧ t.outcome = some .ok ∧
      (decodeWord gapFillTaken s.fetchWord = .instr .cls ∨
        ∃ x y n, decodeWord gapFillTaken s.fetchWord = .instr (.drw x y n))

/-- An instruction changes a register only as its destination or as its flag: no other instruction
writes `VF` (R11, R12). -/
def Obligations.RegistersChangeOnlyByTheirWriters : Prop :=
  ∀ (ins : Instr) (s t : State) (q : Reg), exec ins s = .next t → t.reg q ≠ s.reg q →
    MayWriteReg q ins

/-- The stack is changed only by `2NNN` and `00EE`, `I` only by `ANNN`, `FX1E` and `FX29`, `DT` only
by `FX15` and `ST` only by `FX18` (the tick aside), and a free value is drawn only by `CXNN` (R14,
R15, R16, R68; decision D15). -/
def Obligations.SpecialStateChangesOnlyByItsWriters : Prop :=
  ∀ (ins : Instr) (s t : State), exec ins s = .next t →
    (t.stack ≠ s.stack → ∃ nnn, ins = .call nnn) ∧
    (t.sp ≠ s.sp → ins = .ret ∨ ∃ nnn, ins = .call nnn) ∧
    (t.i ≠ s.i → (∃ nnn, ins = .ldI nnn) ∨ ∃ x, ins = .addI x ∨ ins = .ldFVx x) ∧
    (t.dt ≠ s.dt → ∃ x, ins = .ldDtVx x) ∧ (t.st ≠ s.st → ∃ x, ins = .ldStVx x) ∧
    (t.draws ≠ s.draws → ∃ x nn, ins = .rnd x nn)

/-- The outcome and `tone` of the last cycle are outputs, not state of the core: no cycle depends on
them (R22). -/
def Obligations.OutputsAreNotReadByTheCore : Prop :=
  ∀ (c : Config) (s : State) (o : Option CycleOutcome) (b : Bool),
    cycle c { s with outcome := o, tone := b } = cycle c s

/-- Every cycle keeps the invariant of the core: memory in canonical form, stack entries at most 4096,
`pc` at most 0x10FE, a halted core still showing the condition of its fault, true outputs (R13, R15,
R30, R138, R139; decisions D2, D4, D8). -/
def Obligations.StepKeepsCoreInvariant : Prop :=
  ∀ s t : State, s.CoreInv config → step s = .next t → t.CoreInv config

/-- The reset state has the invariant of the core, and at any parameters the state after `Reset` has
the invariant of the system (R160). -/
def Obligations.ResetHasCoreInvariant : Prop :=
  State.reset.CoreInv config ∧ ∀ c : Config, (State.resetAt c).Inv c

/-- Every move of the whole system at any parameters, a cycle or a permitted host operation, keeps the
system's invariant; so `pc` stays at most 0x10FE through every run, and its 16 bits never wrap (R5, R13,
R125 to R133, R138, R139; decisions D2, D8, D21, D22; assumption log 24). -/
def Obligations.EveryEventKeepsSystemInvariant : Prop :=
  ∀ (c : Config) (s t : State) (e : Event), s.Inv c → e.next c s = some t → t.Inv c

/-- The reset state, element by element, with `FONT` as what bytes 0 to 79 read as (R33, R160;
decisions D20, D26; assumption log 6). That the raw read `byteAt` answers 0 at 4096 and above, where
the machine has no byte and every access faults (R7, R34), is the model's choice, assumption log 34. -/
def Obligations.ResetValues : Prop :=
  (∀ a, State.reset.byteAt a = if h : a < 80 then config.font[a] else 0) ∧
  config.font.toList = fontBytes ∧ (∀ r, State.reset.reg r = 0) ∧ State.reset.i = 0 ∧
  State.reset.pc.toNat = 0x200 ∧ State.reset.sp = 0 ∧ (∀ k : Fin 16, State.reset.stack[k] = 0) ∧
  State.reset.dt = 0 ∧ State.reset.st = 0 ∧ (∀ k, State.reset.pressed k = false) ∧
  (∀ c, State.reset.cell c = false) ∧ State.reset.redraw = false ∧ State.reset.runState = .running

/-! ### Control flow (41_control_flow.md, 48_gap_fill.md section 3) -/

/-- `00EE` (R70): the popped entry becomes `pc` as it is, `sp` falls by one, the entry stays; on an
empty stack it raises `StackUnderflow` and nothing else changes (that the entry stays is the spec's
decision D4, assumption log 9; that a raise is a halted state its decision D8, assumption log 1). -/
def Obligations.ReturnPopsOrUnderflows : Prop :=
  ∀ s : State,
    (∀ k : Fin 16, s.sp.val = k.val + 1 → ∃ t, exec .ret s = .next t ∧ t.sp.val = k.val ∧
      t.pc = s.stack[k] ∧ KeepsAllBut [.sp, .pc] s t) ∧
    (s.sp.val = 0 → ∃ t, exec .ret s = .next t ∧ HaltsWith .stackUnderflow s t)

/-- `1NNN` (R71): `pc` becomes `NNN`, whatever it is, and nothing else changes. -/
def Obligations.JumpSetsProgramCounter : Prop :=
  ∀ (nnn : Addr) (s : State), ∃ t, exec (.jp nnn) s = .next t ∧ t.pc.toNat = nnn.toNat ∧
    KeepsAllBut [.pc] s t

/-- `2NNN` (R72): the return address `pc + 2` is pushed and `pc` becomes `NNN`; on a full stack it
raises `StackOverflow` and nothing else changes (that a raise is a halted state is the spec's decision
D8; assumption log 1). -/
def Obligations.CallPushesOrOverflows : Prop :=
  ∀ (nnn : Addr) (s : State),
    (∀ k : Fin 16, s.sp.val = k.val → ∃ t, exec (.call nnn) s = .next t ∧
      t.stack[k] = s.pc + 2 ∧ (∀ j : Fin 16, j ≠ k → t.stack[j] = s.stack[j]) ∧
      t.sp.val = k.val + 1 ∧ t.pc.toNat = nnn.toNat ∧ KeepsAllBut [.stack, .sp, .pc] s t) ∧
    (s.sp.val = 16 → ∃ t, exec (.call nnn) s = .next t ∧ HaltsWith .stackOverflow s t)

/-- `3XNN`, `4XNN`, `5XY0` (R73, R74, R75): `pc + 4` where the condition holds, else `pc + 2`, and
nothing else changes. -/
def Obligations.SkipsOnRegisterComparison : Prop :=
  ∀ (x y : Reg) (nn : Byte) (s : State),
    (∃ t, exec (.seImm x nn) s = .next t ∧
      ChangesPcTo (if (s.reg x).toNat = nn.toNat then s.pc + 4 else s.pc + 2) s t) ∧
    (∃ t, exec (.sneImm x nn) s = .next t ∧
      ChangesPcTo (if (s.reg x).toNat ≠ nn.toNat then s.pc + 4 else s.pc + 2) s t) ∧
    (∃ t, exec (.seReg x y) s = .next t ∧
      ChangesPcTo (if (s.reg x).toNat = (s.reg y).toNat then s.pc + 4 else s.pc + 2) s t)

/-- The gap instructions `9XY0` and `BNNN` (R114, R115; decisions D2, D13, D28; assumption log 18,
29). -/
def Obligations.GapSkipAndJumpWithOffset : Prop :=
  ∀ (x y : Reg) (nnn : Addr) (s : State),
    (∃ t, exec (.sneReg x y) s = .next t ∧
      ChangesPcTo (if (s.reg x).toNat ≠ (s.reg y).toNat then s.pc + 4 else s.pc + 2) s t) ∧
    (∃ t, exec (.jpV0 nnn) s = .next t ∧ t.pc.toNat = nnn.toNat + (s.reg 0).toNat ∧
      KeepsAllBut [.pc] s t)

/-- `2NNN` then `00EE` comes back to the instruction after the call, with `sp` as before and nothing
else changed but the stack entry (R70, R72; the source's property S6). -/
def Obligations.CallThenReturnComesBack : Prop :=
  ∀ (nnn : Addr) (s : State), s.sp.val < 16 →
    ∃ t u, exec (.call nnn) s = .next t ∧ exec .ret t = .next u ∧
      u.pc = s.pc + 2 ∧ KeepsAllBut [.pc, .stack] s u

/-- Calls nest until the stack holds 16 entries: any sequence of calls that fits runs and raises `sp`
by its length, and one more call on the full stack overflows (R15, R76, R140). -/
def Obligations.CallsNestSixteenDeep : Prop :=
  ∀ (targets : List Addr) (s : State), s.sp.val + targets.length ≤ 16 →
    ∃ t, targets.foldl (fun (o : Result) nnn => match o with
        | .next u => exec (.call nnn) u
        | .fault r => .fault r
        | .refused r => .refused r) (.next s) = .next t ∧
      t.sp.val = s.sp.val + targets.length ∧ t.runState = s.runState ∧
      (∀ j : Fin 16, j.val < s.sp.val → t.stack[j] = s.stack[j]) ∧
      (t.sp.val = 16 → ∀ nnn, ∃ u, exec (.call nnn) t = .next u ∧ HaltsWith .stackOverflow t u)

/-! ### Register load and ALU (42_load_and_alu.md, 48_gap_fill.md sections 2 and 4) -/

/-- `6XNN` and `7XNN` (R80, R81): `V[X]` becomes `NN`, or the sum modulo 256 with no carry recorded;
no other register changes. -/
def Obligations.LoadAndAddImmediate : Prop :=
  ∀ (x : Reg) (nn : Byte) (s : State),
    (∃ t, exec (.ldImm x nn) s = .next t ∧ t.reg x = nn ∧ AdvancesWritingRegs (· = x) s t) ∧
    (∃ t, exec (.addImm x nn) s = .next t ∧
      (t.reg x).toNat = ((s.reg x).toNat + nn.toNat) % 256 ∧ AdvancesWritingRegs (· = x) s t)

/-- `8XY0`, `8XY2`, `8XY3` (R82, R83, R84): copy, and, exclusive or; `VF` changes only as the
destination (that `8XY2` and `8XY3` leave it is the spec's decision D19; assumption log 23). -/
def Obligations.CopyAndLogic : Prop :=
  ∀ (x y : Reg) (s : State),
    (∃ t, exec (.ldReg x y) s = .next t ∧ t.reg x = s.reg y ∧ AdvancesWritingRegs (· = x) s t) ∧
    (∃ t, exec (.andReg x y) s = .next t ∧
      (∀ k, (t.reg x).getLsbD k = ((s.reg x).getLsbD k && (s.reg y).getLsbD k)) ∧
      AdvancesWritingRegs (· = x) s t) ∧
    (∃ t, exec (.xorReg x y) s = .next t ∧
      (∀ k, (t.reg x).getLsbD k = ((s.reg x).getLsbD k ^^ (s.reg y).getLsbD k)) ∧
      AdvancesWritingRegs (· = x) s t)

/-- The gap instruction `8XY1` (R111; decision D13; assumption log 18). -/
def Obligations.GapOr : Prop :=
  ∀ (x y : Reg) (s : State), ∃ t, exec (.orReg x y) s = .next t ∧
    (∀ k, (t.reg x).getLsbD k = ((s.reg x).getLsbD k || (s.reg y).getLsbD k)) ∧
    AdvancesWritingRegs (· = x) s t

/-- `8XY4` (R85): the sum modulo 256 and the carry; with `X = 15` the carry remains (the corner is
the spec's decision D5; assumption log 10). -/
def Obligations.AddRegistersWithCarry : Prop :=
  ∀ (x y : Reg) (s : State), ∃ t, exec (.addReg x y) s = .next t ∧
    (x ≠ 15 → (t.reg x).toNat = ((s.reg x).toNat + (s.reg y).toNat) % 256) ∧
    (t.reg 15).toNat = (if 255 < (s.reg x).toNat + (s.reg y).toNat then 1 else 0) ∧
    AdvancesWritingRegs (fun q => q = x ∨ q = 15) s t

/-- `8XY5` and the gap instruction `8XY7` (R86, R112): the difference modulo 256 and 1 for no borrow;
with `X = 15` the difference remains (decisions D5, D13; assumption log 10, 18). -/
def Obligations.SubtractBothWaysWithNoBorrow : Prop :=
  ∀ (x y : Reg) (s : State),
    (∃ t, exec (.subReg x y) s = .next t ∧
      (t.reg x).toNat = ((s.reg x).toNat + 256 - (s.reg y).toNat) % 256 ∧
      (x ≠ 15 → (t.reg 15).toNat = if (s.reg y).toNat ≤ (s.reg x).toNat then 1 else 0) ∧
      AdvancesWritingRegs (fun q => q = x ∨ q = 15) s t) ∧
    (∃ t, exec (.subnReg x y) s = .next t ∧
      (t.reg x).toNat = ((s.reg y).toNat + 256 - (s.reg x).toNat) % 256 ∧
      (x ≠ 15 → (t.reg 15).toNat = if (s.reg x).toNat ≤ (s.reg y).toNat then 1 else 0) ∧
      AdvancesWritingRegs (fun q => q = x ∨ q = 15) s t)

/-- `8XY6` and the gap instruction `8XYE` (R53, R87, R113): half or twice modulo 256, the bit shifted
out in `VF`, the field `Y` without effect; with `X = 15` the shifted value remains (decisions D5,
D13, D27; assumption log 10, 28). -/
def Obligations.ShiftsInPlaceIgnoringY : Prop :=
  ∀ (x y : Reg) (s : State),
    (∃ t, exec (.shr x y) s = .next t ∧ (∀ z, exec (.shr x z) s = .next t) ∧
      (t.reg x).toNat = (s.reg x).toNat / 2 ∧
      (x ≠ 15 → (t.reg 15).toNat = (s.reg x).toNat % 2) ∧
      AdvancesWritingRegs (fun q => q = x ∨ q = 15) s t) ∧
    (∃ t, exec (.shl x y) s = .next t ∧ (∀ z, exec (.shl x z) s = .next t) ∧
      (t.reg x).toNat = 2 * (s.reg x).toNat % 256 ∧
      (x ≠ 15 → (t.reg 15).toNat = (s.reg x).toNat / 128) ∧
      AdvancesWritingRegs (fun q => q = x ∨ q = 15) s t)

/-- The gap instruction `CXNN` (R116): `V[X]` gets a byte of which nothing is known, cut down to the
bits of `NN`, and one free value is used up (decisions D13, D15; assumption log 4, 18). It holds
whatever the free value is. -/
def Obligations.RandomByteIsMasked : Prop :=
  ∀ (x : Reg) (nn : Byte) (s : State), ∃ t, exec (.rnd x nn) s = .next t ∧
    t.reg x = Config.rand8 s.draws &&& nn ∧
    (∀ k, nn.getLsbD k = false → (t.reg x).getLsbD k = false) ∧ t.draws = s.draws + 1 ∧
    KeepsRegsBut (· = x) s t ∧ Advances [.v, .draws] s t

/-! ### Index and memory (43_index_and_memory.md, 48_gap_fill.md section 6) -/

/-- `ANNN` (R90): `I` becomes `NNN`. -/
def Obligations.LoadIndexImmediate : Prop :=
  ∀ (nnn : Addr) (s : State), ∃ t, exec (.ldI nnn) s = .next t ∧ t.i.toNat = nnn.toNat ∧
    Advances [.i] s t

/-- `FX1E` and the gap instruction `FX29` (R91, R118): `I` becomes `I + V[X]` modulo 4096, or
`5 * V[X]` unmasked; no flag (decisions D3, D13, D16; assumption log 8, 20). -/
def Obligations.IndexAddAndGlyphAddress : Prop :=
  ∀ (x : Reg) (s : State),
    (∃ t, exec (.addI x) s = .next t ∧ t.i.toNat = (s.i.toNat + (s.reg x).toNat) % 4096 ∧
      Advances [.i] s t) ∧
    (∃ t, exec (.ldFVx x) s = .next t ∧ t.i.toNat = 5 * (s.reg x).toNat ∧ Advances [.i] s t)

/-- `FX65` (R92): registers 0 to `X` get the bytes at `I` to `I + X`, `I` stays; where the last
address is above 4095 it raises `MemoryOutOfBounds` and loads nothing (decisions D8, D19; assumption
log 13, 23). -/
def Obligations.LoadRegisterBlock : Prop :=
  ∀ (x : Reg) (s : State),
    (s.i.toNat + x.val ≤ 4095 → ∃ t, exec (.ldVxMem x) s = .next t ∧
      (∀ r, r ≤ x → t.reg r = s.byteAt (s.ea r.val)) ∧ AdvancesWritingRegs (· ≤ x) s t) ∧
    (4095 < s.i.toNat + x.val →
      ∃ t, exec (.ldVxMem x) s = .next t ∧ HaltsWith (.memoryOutOfBounds 4096) s t)

/-- The gap instruction `FX55` (R120): the bytes at `I` to `I + X` get registers 0 to `X` (read back
in a memory of canonical form, which every step keeps), every other byte stays; where the last
address is above 4095 nothing is written (decisions D8, D13, D17, D19; assumption log 13, 18, 21,
23). -/
def Obligations.StoreRegisterBlock : Prop :=
  ∀ (x : Reg) (s : State),
    (s.i.toNat + x.val ≤ 4095 → ∃ t, exec (.ldMemVx x) s = .next t ∧
      (Memory.wf s.mem → ∀ r, r ≤ x → t.byteAt (s.ea r.val) = s.reg r) ∧
      (∀ a, a < s.ea 0 ∨ s.ea 0 + blockLength x ≤ a → t.byteAt a = s.byteAt a) ∧
      Advances [.mem] s t) ∧
    (4095 < s.i.toNat + x.val →
      ∃ t, exec (.ldMemVx x) s = .next t ∧ HaltsWith (.memoryOutOfBounds 4096) s t)

/-- The gap instruction `FX33` (R119): three bytes from `I` on get the decimal digits of `V[X]`,
hundreds first, every other byte stays; above 4095 nothing is written (decisions D8, D13, D17;
assumption log 13, 18, 21). -/
def Obligations.StoreDecimalDigits : Prop :=
  ∀ (x : Reg) (s : State),
    (s.i.toNat + 2 ≤ 4095 → ∃ t, exec (.ldBVx x) s = .next t ∧
      (Memory.wf s.mem →
        (t.byteAt (s.ea 0)).toNat = (s.reg x).toNat / 100 ∧
        (t.byteAt (s.ea 1)).toNat = (s.reg x).toNat / 10 % 10 ∧
        (t.byteAt (s.ea 2)).toNat = (s.reg x).toNat % 10) ∧
      (∀ a, a < s.ea 0 ∨ s.ea 0 + 3 ≤ a → t.byteAt a = s.byteAt a) ∧ Advances [.mem] s t) ∧
    (4095 < s.i.toNat + 2 →
      ∃ t, exec (.ldBVx x) s = .next t ∧ HaltsWith (.memoryOutOfBounds 4096) s t)

/-- `FX55` then `FX65` with the same `X` reloads the same values (R120; decisions D13, D19). -/
def Obligations.StoreThenLoadBlockRestores : Prop :=
  ∀ (x : Reg) (s : State), Memory.wf s.mem → s.i.toNat + x.val ≤ 4095 →
    ∃ t u, exec (.ldMemVx x) s = .next t ∧ exec (.ldVxMem x) t = .next u ∧
      u.pc = s.pc + 4 ∧ KeepsAllBut [.mem, .pc] s u ∧ ∀ a, u.byteAt a = t.byteAt a

/-- Self-modifying code: two bytes stored by `FX55` are the very next word fetched from their address,
high byte first (R36, R42). -/
def Obligations.StoredBytesAreFetched : Prop :=
  ∀ (x j : Reg) (s : State), Memory.wf s.mem → s.i.toNat + x.val ≤ 4095 → j < x →
    ∃ t, exec (.ldMemVx x) s = .next t ∧
      (t.setPc (BitVec.ofNat 16 (s.ea j.val))).fetchWord.toNat =
        256 * (s.reg j).toNat + (s.reg (j + 1)).toNat

/-! ### Display (44_display.md) -/

/-- `00E0` (R95): every cell is 0 and a redraw is requested, whatever was there. -/
def Obligations.ClearScreen : Prop :=
  ∀ s : State, ∃ t, exec .cls s = .next t ∧ (∀ c, t.cell c = false) ∧ t.redraw = true ∧
    Advances [.fb, .redraw] s t

/-- `DXYN` is one XOR of the wrapped sprite (R96, R97): each of the 2048 cells is flipped exactly where
a set sprite bit falls on it, `VF` is 1 exactly where such a cell was 1 before, and `redraw` is set
always; where the sprite does not fit in memory nothing is drawn (decisions D5 to D8; assumption log
10 to 13). -/
def Obligations.DrawIsOneXorOfTheSprite : Prop :=
  ∀ (x y : Reg) (n : Height) (s : State),
    (s.i.toNat + n.val ≤ 4096 → ∃ t, exec (.drw x y n) s = .next t ∧
      (∀ c, c < 2048 → SpriteCovers s x y n c → t.cell c = !s.cell c) ∧
      (∀ c, c < 2048 → ¬ SpriteCovers s x y n c → t.cell c = s.cell c) ∧
      ((∃ c, SpriteCovers s x y n c ∧ s.cell c = true) → t.reg 15 = 1) ∧
      ((¬ ∃ c, SpriteCovers s x y n c ∧ s.cell c = true) → t.reg 15 = 0) ∧
      t.redraw = true ∧ KeepsRegsBut (· = 15) s t ∧ Advances [.v, .fb, .redraw] s t) ∧
    (4096 < s.i.toNat + n.val →
      ∃ t, exec (.drw x y n) s = .next t ∧ HaltsWith (.memoryOutOfBounds 4096) s t)

/-- Drawing the same sprite twice at the same place restores the framebuffer, and on a blank screen
the second draw collides if the sprite has a set bit (R97; the source's property S7). The place is
the same only if neither coordinate is `VF`, which the first draw overwrites. -/
def Obligations.DrawingTwiceRestoresTheScreen : Prop :=
  ∀ (x y : Reg) (n : Height) (s : State), x ≠ 15 → y ≠ 15 → s.i.toNat + n.val ≤ 4096 →
    ∃ t u, exec (.drw x y n) s = .next t ∧ exec (.drw x y n) t = .next u ∧ u.fb = s.fb ∧
      ((∀ c, s.cell c = false) → (∃ c, SpriteCovers s x y n c) → u.reg 15 = 1)

/-! ### Keypad and timers (45_keypad.md, 46_timer_access.md, 48_gap_fill.md section 5) -/

/-- `EX9E` and `EXA1` (R100, R101, R102): a skip on the level of key `V[X]`; above 15 they raise
`KeyIndexOutOfRange` and do neither (decision D11; assumption log 16). -/
def Obligations.KeySkips : Prop :=
  ∀ (x : Reg) (s : State),
    (∀ k : Key, (s.reg x).toNat = k.val →
      (∃ t, exec (.skp x) s = .next t ∧
        ChangesPcTo (if s.pressed k = true then s.pc + 4 else s.pc + 2) s t) ∧
      (∃ t, exec (.sknp x) s = .next t ∧
        ChangesPcTo (if s.pressed k = false then s.pc + 4 else s.pc + 2) s t)) ∧
    (15 < (s.reg x).toNat →
      (∃ t, exec (.skp x) s = .next t ∧ HaltsWith (.keyIndexOutOfRange (s.reg x)) s t) ∧
      (∃ t, exec (.sknp x) s = .next t ∧ HaltsWith (.keyIndexOutOfRange (s.reg x)) s t))

/-- The gap instruction `FX0A` (R117): the lowest key that is down, or the same word again; it never
faults (decisions D13, D14; assumption log 19). -/
def Obligations.WaitForKey : Prop :=
  ∀ (x : Reg) (s : State),
    (∀ k : Key, s.pressed k = true → (∀ j, j < k → s.pressed j = false) →
      ∃ t, exec (.ldVxK x) s = .next t ∧ (t.reg x).toNat = k.val ∧
        AdvancesWritingRegs (· = x) s t) ∧
    ((∀ k, s.pressed k = false) → exec (.ldVxK x) s = .next s)

/-- `FX07`, `FX15`, `FX18` in the execute step (R105, R106, R107); the tick of the same cycle is
`TimersTickOncePerOkCycle`. -/
def Obligations.TimerAccess : Prop :=
  ∀ (x : Reg) (s : State),
    (∃ t, exec (.ldVxDt x) s = .next t ∧ t.reg x = s.dt ∧ AdvancesWritingRegs (· = x) s t) ∧
    (∃ t, exec (.ldDtVx x) s = .next t ∧ t.dt = s.reg x ∧ Advances [.dt] s t) ∧
    (∃ t, exec (.ldStVx x) s = .next t ∧ t.st = s.reg x ∧ Advances [.st] s t)

/-! ### The host (49_host_operations.md, 70_reset_and_hazards.md) -/

/-- `LoadROM` (R127): a ROM above 3584 bytes loads nothing; any other is copied to 0x200 and up and
leaves every other byte (read back in a memory of canonical form) (decision D22). -/
def Obligations.LoadRomCopiesOrRejects : Prop :=
  ∀ (bytes : List Byte) (s : State),
    (3584 < bytes.length → s.loadRom bytes = (.romTooLarge bytes.length, s)) ∧
    (bytes.length ≤ 3584 → ∃ t, s.loadRom bytes = (.loaded, t) ∧
      (Memory.wf s.mem → Memory.wf t.mem ∧
        ∀ (k : Nat) (h : k < bytes.length), t.byteAt (0x200 + k) = bytes[k]) ∧
      (∀ a, a < 0x200 ∨ 0x200 + bytes.length ≤ a → t.byteAt a = s.byteAt a) ∧
      KeepsAllBut [.mem, .romLoaded] s t)

/-- `SetKey` and `ClearRedraw` (R128, R129): the one key, the one flag, in any run state. -/
def Obligations.SetKeyAndClearRedraw : Prop :=
  ∀ (c : Config) (k : Key) (b : Bool) (s : State),
    (∃ t, (Event.host (.setKey k b)).next c s = some t ∧ t.pressed k = b ∧
      (∀ j, j ≠ k → t.pressed j = s.pressed j) ∧ KeepsAllBut [.key] s t) ∧
    (∃ t, (Event.host .clearRedraw).next c s = some t ∧ t.redraw = false ∧
      KeepsAllBut [.redraw] s t)

/-- What the interface permits when, and what it replies (R125, R127, R130, R132, R133): `HostSkip` only
right after a report, once, and then it moves `pc` by 2 and nothing else; `LoadROM` only before the
first cycle and once; `TimerTick` only in mode `host`, on a halted core too, and then it counts both
timers down. `LoadROM` replies whether it loaded, `TimerTick` the tone, the other operations nothing
(decisions D10, D21, D22; assumption log 24, 25, 35). -/
def Obligations.HostProtocol : Prop :=
  ∀ (c : Config) (s : State),
    (∀ p w, s.outcome = some (.unknownOpcode p w) → s.pc = p →
      ∃ t, (Event.host .hostSkip).next c s = some t ∧ ChangesPcTo (s.pc + 2) s t ∧
        (Event.host .hostSkip).next c t = none) ∧
    ((∀ w, s.outcome ≠ some (.unknownOpcode s.pc w)) → (Event.host .hostSkip).next c s = none) ∧
    (∀ bytes, s.outcome ≠ none ∨ s.romLoaded = true →
      (Event.host (.loadRom bytes)).next c s = none) ∧
    (∀ bytes, s.outcome = none → s.romLoaded = false →
      (Event.host (.loadRom bytes)).next c s = some (s.loadRom bytes).2) ∧
    (c.tickMode = .perCycle → (Event.host .timerTick).next c s = none) ∧
    (c.tickMode = .host → ∃ t, (Event.host .timerTick).next c s = some t ∧
      t.dt.toNat = s.dt.toNat - 1 ∧ t.st.toNat = s.st.toNat - 1 ∧ KeepsAllBut [.dt, .st] s t) ∧
    (∀ op : HostOp, (op.act c s).1 = match op with
      | .loadRom bytes => .load (if 3584 < bytes.length then .romTooLarge bytes.length else .loaded)
      | .timerTick => .tone (decide (s.st.toNat = 1))
      | .reset | .setKey _ _ | .clearRedraw | .hostSkip => .done)

/-- `Reset` leaves the halt and everything else behind: every element is at its reset value, from any
state, with the 80 bytes of whatever `FONT` the parameters give at 0 to 79 (R33, R126, R139, R160;
decisions D20, D26). The counter of free values is the model's own and stays (assumption log 4). That
the raw read `byteAt` answers 0 at 4096 and above, where the machine has no byte and every access
faults (R7, R34), is the model's choice, assumption log 34. -/
def Obligations.ResetFromAnyState : Prop :=
  ∀ (c : Config) (s : State), ∃ t, (Event.host .reset).next c s = some t ∧
    (∀ a, t.byteAt a = if h : a < 80 then c.font[a] else 0) ∧ Memory.wf t.mem ∧
    KeepsAllBut [.mem, .draws] State.reset t ∧ t.draws = s.draws

/-- Boot at any parameters (R161): after `Reset` and `LoadROM` the first cycle fetches the word of the
ROM's first two bytes; after an empty ROM it reports the word 0x0000 at 0x200 (decision D22). -/
def Obligations.BootFetchesTheRom : Prop :=
  ∀ (c : Config) (s : State),
    (∀ (hi lo : Byte) (rest : List Byte), rest.length + 2 ≤ 3584 →
      ∃ t, runEvents c [.host .reset, .host (.loadRom (hi :: lo :: rest))] s = some t ∧
        t.pc.toNat = 0x200 ∧ t.runState = .running ∧
        t.fetchWord.toNat = 256 * hi.toNat + lo.toNat ∧
        KeepsAllBut [.mem, .draws, .romLoaded] State.reset t) ∧
    (∃ t, runEvents c [.host .reset, .host (.loadRom []), .cycle] s = some t ∧
      t.outcome = some (.unknownOpcode 0x200 0x0000) ∧ t.pc.toNat = 0x200)
end

