-- ==== Sys2Proof/Laws/Memory.lean ====
section
/-! SUPPORT. The laws of memory: a read after a write, and the canonical form that every memory
operation keeps. -/

namespace Sys2Proof.Machine

theorem Memory.read_put_same (a : Nat) (b : Byte) (rest : List Host.Cell)
    (h : Memory.read rest a = initialByte a) : Memory.read (Memory.put a b rest) a = b := by
  unfold Memory.put
  split
  · rename_i hb; rw [h, hb]
  · simp [Memory.read]

theorem Memory.read_put_other (a k : Nat) (b : Byte) (rest : List Host.Cell) (h : k ≠ a) :
    Memory.read (Memory.put a b rest) k = Memory.read rest k := by
  unfold Memory.put
  split
  · rfl
  · simp [Memory.read, Ne.symm h]

/-- An address that no cell lists reads as its initial byte. -/
theorem Memory.read_unlisted (m : List Host.Cell) (a : Nat) (h : ∀ c ∈ m, c.1 ≠ a) :
    Memory.read m a = initialByte a := by
  induction m with
  | nil => rfl
  | cons c m ih =>
    have hc : c.1 ≠ a := h c (by simp)
    simp only [Memory.read, hc, if_false]
    exact ih fun d hd => h d (by simp [hd])

/-- A write leaves every other address alone, whatever the list. -/
theorem Memory.read_write_other (m : List Host.Cell) (a k : Nat) (b : Byte) (h : k ≠ a) :
    Memory.read (Memory.write m a b) k = Memory.read m k := by
  induction m with
  | nil => exact Memory.read_put_other a k b [] h
  | cons c m ih =>
    obtain ⟨n, x⟩ := c
    simp only [Memory.write]
    split
    · exact Memory.read_put_other a k b _ h
    · split
      · rename_i hn
        rw [Memory.read_put_other a k b m h]
        simp [Memory.read, ← hn, Ne.symm h]
      · simp only [Memory.read, ih]

/-- A read after a write to the same address gives the value written. -/
theorem Memory.read_write_same (m : List Host.Cell) (a : Nat) (b : Byte) (h : Memory.wf m) :
    Memory.read (Memory.write m a b) a = b := by
  induction m with
  | nil => exact Memory.read_put_same a b [] rfl
  | cons c m ih =>
    obtain ⟨n, x⟩ := c
    obtain ⟨hs, hm⟩ := h
    rw [List.pairwise_cons] at hs
    have later : ∀ d ∈ m, n < d.1 := fun d hd => hs.1 d hd
    simp only [Memory.write]
    split
    · rename_i hlt
      refine Memory.read_put_same a b _ (Memory.read_unlisted _ a fun d hd => ?_)
      rcases List.mem_cons.mp hd with rfl | hd
      · simp; omega
      · have := later d hd; omega
    · split
      · rename_i hn
        exact Memory.read_put_same a b m
          (Memory.read_unlisted m a fun d hd => by have := later d hd; omega)
      · rename_i h1 h2
        have hna : n ≠ a := fun e => h2 e.symm
        simp only [Memory.read, hna, if_false]
        exact ih ⟨hs.2, fun d hd => hm d (by simp [hd])⟩

theorem Memory.mem_put (a : Nat) (b : Byte) (rest : List Host.Cell) (c : Host.Cell)
    (h : c ∈ Memory.put a b rest) : (c = (a, b) ∧ b ≠ initialByte a) ∨ c ∈ rest := by
  unfold Memory.put at h
  split at h
  · exact .inr h
  · rename_i hb
    rcases List.mem_cons.mp h with rfl | h
    · exact .inl ⟨rfl, hb⟩
    · exact .inr h

theorem Memory.mem_write (m : List Host.Cell) (a : Nat) (b : Byte) (c : Host.Cell)
    (h : c ∈ Memory.write m a b) : (c = (a, b) ∧ b ≠ initialByte a) ∨ c ∈ m := by
  induction m with
  | nil => exact (Memory.mem_put a b [] c h).imp_right (by simp)
  | cons d m ih =>
    obtain ⟨n, x⟩ := d
    simp only [Memory.write] at h
    split at h
    · exact Memory.mem_put a b _ c h
    · split at h
      · exact (Memory.mem_put a b _ c h).imp_right fun h => by simp [h]
      · rcases List.mem_cons.mp h with rfl | h
        · exact .inr (by simp)
        · exact (ih h).imp_right fun h => by simp [h]

theorem Memory.pairwise_put (a : Nat) (b : Byte) (rest : List Host.Cell)
    (h : rest.Pairwise fun p q => p.1 < q.1) (ha : ∀ c ∈ rest, a < c.1) :
    (Memory.put a b rest).Pairwise fun p q => p.1 < q.1 := by
  unfold Memory.put
  split
  · exact h
  · exact List.pairwise_cons.mpr ⟨ha, h⟩

/-- A write to an address of memory keeps the canonical form. -/
theorem Memory.wf_write (m : List Host.Cell) (a : Nat) (b : Byte) (h : Memory.wf m)
    (ha : a < 4096) : Memory.wf (Memory.write m a b) := by
  refine ⟨?_, fun c hc => ?_⟩
  · obtain ⟨hs, -⟩ := h
    induction m with
    | nil => exact Memory.pairwise_put a b [] (by simp) (by simp)
    | cons d m ih =>
      obtain ⟨n, x⟩ := d
      obtain ⟨hn, hs'⟩ := List.pairwise_cons.mp hs
      simp only [Memory.write]
      split
      · rename_i hlt
        refine Memory.pairwise_put a b _ hs fun c hc => ?_
        rcases List.mem_cons.mp hc with rfl | hc
        · exact hlt
        · exact hlt.trans (hn c hc)
      · split
        · rename_i he
          exact Memory.pairwise_put a b m hs' fun c hc => by rw [he]; exact hn c hc
        · refine List.pairwise_cons.mpr ⟨fun c hc => ?_, ih hs'⟩
          rcases Memory.mem_write m a b c hc with ⟨rfl, -⟩ | hc
          · simp only; omega
          · exact hn c hc
  · rcases Memory.mem_write m a b c hc with ⟨rfl, hb⟩ | hc
    · exact ⟨ha, hb⟩
    · exact h.2 c hc

/-- A run of bytes written inside memory keeps the canonical form. -/
theorem Memory.wf_writeBytes (m : List Host.Cell) (base : Nat) (bs : List Byte)
    (h : Memory.wf m) (hb : base + bs.length ≤ 4096) : Memory.wf (Memory.writeBytes m base bs) := by
  induction bs generalizing m base with
  | nil => exact h
  | cons b bs ih =>
    simp only [List.length_cons] at hb
    exact ih _ _ (Memory.wf_write m base b h (by omega)) (by omega)

/-- Every address outside the bytes written reads as before, whatever the list. -/
theorem Memory.read_writeBytes_other (m : List Host.Cell) (base : Nat) (bs : List Byte) (a : Nat)
    (h : a < base ∨ base + bs.length ≤ a) :
    Memory.read (Memory.writeBytes m base bs) a = Memory.read m a := by
  induction bs generalizing m base with
  | nil => rfl
  | cons b bs ih =>
    simp only [List.length_cons] at h
    rw [Memory.writeBytes, ih _ _ (by omega), Memory.read_write_other _ _ _ _ (by omega)]

/-- Byte `k` of the bytes written is what `base + k` then reads as. -/
theorem Memory.read_writeBytes (m : List Host.Cell) (base : Nat) (bs : List Byte) (k : Nat)
    (h : Memory.wf m) (hb : base + bs.length ≤ 4096) (hk : k < bs.length) :
    Memory.read (Memory.writeBytes m base bs) (base + k) = bs[k] := by
  induction bs generalizing m base k with
  | nil => simp at hk
  | cons b bs ih =>
    simp only [List.length_cons] at hb hk
    have hw := Memory.wf_write m base b h (by omega)
    cases k with
    | zero =>
      rw [Memory.writeBytes, Memory.read_writeBytes_other _ _ _ _ (by omega)]
      simpa using Memory.read_write_same m base b h
    | succ k =>
      rw [Memory.writeBytes, show base + (k + 1) = base + 1 + k by omega,
        ih _ _ _ hw (by omega) (by omega)]
      simp

/-- Above the font an unlisted address reads as zero (R32). -/
theorem initialByte_above_font (a : Nat) (h : 80 ≤ a) : initialByte a = 0 := by
  have hl : config.font.toList.length ≤ a := by simpa using h
  simp [initialByte, List.getElem?_eq_none hl]

theorem Memory.wf_nil : Memory.wf [] := by simp [Memory.wf]

end Sys2Proof.Machine
end

