-- ==== Sys2Proof/Laws/State.lean ====
section
/-! SUPPORT. One lemma per field per update of the state, each true by rfl, so that no later proof
unfolds a record update. -/

namespace Sys2Proof.Machine

variable (s : State)


/-! ### `State.setReg` -/

@[simp] theorem State.setReg_mem (r : Reg) (b : Byte) : (s.setReg r b).mem = s.mem := rfl
@[simp] theorem State.setReg_v (r : Reg) (b : Byte) : (s.setReg r b).v = s.v.set r b := rfl
@[simp] theorem State.setReg_i (r : Reg) (b : Byte) : (s.setReg r b).i = s.i := rfl
@[simp] theorem State.setReg_pc (r : Reg) (b : Byte) : (s.setReg r b).pc = s.pc := rfl
@[simp] theorem State.setReg_stack (r : Reg) (b : Byte) : (s.setReg r b).stack = s.stack := rfl
@[simp] theorem State.setReg_sp (r : Reg) (b : Byte) : (s.setReg r b).sp = s.sp := rfl
@[simp] theorem State.setReg_dt (r : Reg) (b : Byte) : (s.setReg r b).dt = s.dt := rfl
@[simp] theorem State.setReg_st (r : Reg) (b : Byte) : (s.setReg r b).st = s.st := rfl
@[simp] theorem State.setReg_key (r : Reg) (b : Byte) : (s.setReg r b).key = s.key := rfl
@[simp] theorem State.setReg_fb (r : Reg) (b : Byte) : (s.setReg r b).fb = s.fb := rfl
@[simp] theorem State.setReg_redraw (r : Reg) (b : Byte) : (s.setReg r b).redraw = s.redraw := rfl
@[simp] theorem State.setReg_runState (r : Reg) (b : Byte) : (s.setReg r b).runState = s.runState := rfl
@[simp] theorem State.setReg_outcome (r : Reg) (b : Byte) : (s.setReg r b).outcome = s.outcome := rfl
@[simp] theorem State.setReg_tone (r : Reg) (b : Byte) : (s.setReg r b).tone = s.tone := rfl
@[simp] theorem State.setReg_draws (r : Reg) (b : Byte) : (s.setReg r b).draws = s.draws := rfl
@[simp] theorem State.setReg_romLoaded (r : Reg) (b : Byte) : (s.setReg r b).romLoaded = s.romLoaded := rfl
@[simp] theorem State.setReg_byteAt (r : Reg) (b : Byte) (q : Nat) : (s.setReg r b).byteAt q = s.byteAt q := rfl
@[simp] theorem State.setReg_cell (r : Reg) (b : Byte) (q : Nat) : (s.setReg r b).cell q = s.cell q := rfl
@[simp] theorem State.setReg_pressed (r : Reg) (b : Byte) (q : Key) : (s.setReg r b).pressed q = s.pressed q := rfl
@[simp] theorem State.setReg_ea (r : Reg) (b : Byte) (q : Nat) : (s.setReg r b).ea q = s.ea q := rfl

/-! ### `State.setIndex` -/

@[simp] theorem State.setIndex_mem (a : Addr) : (s.setIndex a).mem = s.mem := rfl
@[simp] theorem State.setIndex_v (a : Addr) : (s.setIndex a).v = s.v := rfl
@[simp] theorem State.setIndex_i (a : Addr) : (s.setIndex a).i = a := rfl
@[simp] theorem State.setIndex_pc (a : Addr) : (s.setIndex a).pc = s.pc := rfl
@[simp] theorem State.setIndex_stack (a : Addr) : (s.setIndex a).stack = s.stack := rfl
@[simp] theorem State.setIndex_sp (a : Addr) : (s.setIndex a).sp = s.sp := rfl
@[simp] theorem State.setIndex_dt (a : Addr) : (s.setIndex a).dt = s.dt := rfl
@[simp] theorem State.setIndex_st (a : Addr) : (s.setIndex a).st = s.st := rfl
@[simp] theorem State.setIndex_key (a : Addr) : (s.setIndex a).key = s.key := rfl
@[simp] theorem State.setIndex_fb (a : Addr) : (s.setIndex a).fb = s.fb := rfl
@[simp] theorem State.setIndex_redraw (a : Addr) : (s.setIndex a).redraw = s.redraw := rfl
@[simp] theorem State.setIndex_runState (a : Addr) : (s.setIndex a).runState = s.runState := rfl
@[simp] theorem State.setIndex_outcome (a : Addr) : (s.setIndex a).outcome = s.outcome := rfl
@[simp] theorem State.setIndex_tone (a : Addr) : (s.setIndex a).tone = s.tone := rfl
@[simp] theorem State.setIndex_draws (a : Addr) : (s.setIndex a).draws = s.draws := rfl
@[simp] theorem State.setIndex_romLoaded (a : Addr) : (s.setIndex a).romLoaded = s.romLoaded := rfl
@[simp] theorem State.setIndex_reg (a : Addr) (q : Reg) : (s.setIndex a).reg q = s.reg q := rfl
@[simp] theorem State.setIndex_byteAt (a : Addr) (q : Nat) : (s.setIndex a).byteAt q = s.byteAt q := rfl
@[simp] theorem State.setIndex_cell (a : Addr) (q : Nat) : (s.setIndex a).cell q = s.cell q := rfl
@[simp] theorem State.setIndex_pressed (a : Addr) (q : Key) : (s.setIndex a).pressed q = s.pressed q := rfl

/-! ### `State.setPc` -/

@[simp] theorem State.setPc_mem (p : Word) : (s.setPc p).mem = s.mem := rfl
@[simp] theorem State.setPc_v (p : Word) : (s.setPc p).v = s.v := rfl
@[simp] theorem State.setPc_i (p : Word) : (s.setPc p).i = s.i := rfl
@[simp] theorem State.setPc_pc (p : Word) : (s.setPc p).pc = p := rfl
@[simp] theorem State.setPc_stack (p : Word) : (s.setPc p).stack = s.stack := rfl
@[simp] theorem State.setPc_sp (p : Word) : (s.setPc p).sp = s.sp := rfl
@[simp] theorem State.setPc_dt (p : Word) : (s.setPc p).dt = s.dt := rfl
@[simp] theorem State.setPc_st (p : Word) : (s.setPc p).st = s.st := rfl
@[simp] theorem State.setPc_key (p : Word) : (s.setPc p).key = s.key := rfl
@[simp] theorem State.setPc_fb (p : Word) : (s.setPc p).fb = s.fb := rfl
@[simp] theorem State.setPc_redraw (p : Word) : (s.setPc p).redraw = s.redraw := rfl
@[simp] theorem State.setPc_runState (p : Word) : (s.setPc p).runState = s.runState := rfl
@[simp] theorem State.setPc_outcome (p : Word) : (s.setPc p).outcome = s.outcome := rfl
@[simp] theorem State.setPc_tone (p : Word) : (s.setPc p).tone = s.tone := rfl
@[simp] theorem State.setPc_draws (p : Word) : (s.setPc p).draws = s.draws := rfl
@[simp] theorem State.setPc_romLoaded (p : Word) : (s.setPc p).romLoaded = s.romLoaded := rfl
@[simp] theorem State.setPc_reg (p : Word) (q : Reg) : (s.setPc p).reg q = s.reg q := rfl
@[simp] theorem State.setPc_byteAt (p : Word) (q : Nat) : (s.setPc p).byteAt q = s.byteAt q := rfl
@[simp] theorem State.setPc_cell (p : Word) (q : Nat) : (s.setPc p).cell q = s.cell q := rfl
@[simp] theorem State.setPc_pressed (p : Word) (q : Key) : (s.setPc p).pressed q = s.pressed q := rfl
@[simp] theorem State.setPc_ea (p : Word) (q : Nat) : (s.setPc p).ea q = s.ea q := rfl

/-! ### `State.setDelay` -/

@[simp] theorem State.setDelay_mem (b : Byte) : (s.setDelay b).mem = s.mem := rfl
@[simp] theorem State.setDelay_v (b : Byte) : (s.setDelay b).v = s.v := rfl
@[simp] theorem State.setDelay_i (b : Byte) : (s.setDelay b).i = s.i := rfl
@[simp] theorem State.setDelay_pc (b : Byte) : (s.setDelay b).pc = s.pc := rfl
@[simp] theorem State.setDelay_stack (b : Byte) : (s.setDelay b).stack = s.stack := rfl
@[simp] theorem State.setDelay_sp (b : Byte) : (s.setDelay b).sp = s.sp := rfl
@[simp] theorem State.setDelay_dt (b : Byte) : (s.setDelay b).dt = b := rfl
@[simp] theorem State.setDelay_st (b : Byte) : (s.setDelay b).st = s.st := rfl
@[simp] theorem State.setDelay_key (b : Byte) : (s.setDelay b).key = s.key := rfl
@[simp] theorem State.setDelay_fb (b : Byte) : (s.setDelay b).fb = s.fb := rfl
@[simp] theorem State.setDelay_redraw (b : Byte) : (s.setDelay b).redraw = s.redraw := rfl
@[simp] theorem State.setDelay_runState (b : Byte) : (s.setDelay b).runState = s.runState := rfl
@[simp] theorem State.setDelay_outcome (b : Byte) : (s.setDelay b).outcome = s.outcome := rfl
@[simp] theorem State.setDelay_tone (b : Byte) : (s.setDelay b).tone = s.tone := rfl
@[simp] theorem State.setDelay_draws (b : Byte) : (s.setDelay b).draws = s.draws := rfl
@[simp] theorem State.setDelay_romLoaded (b : Byte) : (s.setDelay b).romLoaded = s.romLoaded := rfl
@[simp] theorem State.setDelay_reg (b : Byte) (q : Reg) : (s.setDelay b).reg q = s.reg q := rfl
@[simp] theorem State.setDelay_byteAt (b : Byte) (q : Nat) : (s.setDelay b).byteAt q = s.byteAt q := rfl
@[simp] theorem State.setDelay_cell (b : Byte) (q : Nat) : (s.setDelay b).cell q = s.cell q := rfl
@[simp] theorem State.setDelay_pressed (b : Byte) (q : Key) : (s.setDelay b).pressed q = s.pressed q := rfl
@[simp] theorem State.setDelay_ea (b : Byte) (q : Nat) : (s.setDelay b).ea q = s.ea q := rfl

/-! ### `State.setSound` -/

@[simp] theorem State.setSound_mem (b : Byte) : (s.setSound b).mem = s.mem := rfl
@[simp] theorem State.setSound_v (b : Byte) : (s.setSound b).v = s.v := rfl
@[simp] theorem State.setSound_i (b : Byte) : (s.setSound b).i = s.i := rfl
@[simp] theorem State.setSound_pc (b : Byte) : (s.setSound b).pc = s.pc := rfl
@[simp] theorem State.setSound_stack (b : Byte) : (s.setSound b).stack = s.stack := rfl
@[simp] theorem State.setSound_sp (b : Byte) : (s.setSound b).sp = s.sp := rfl
@[simp] theorem State.setSound_dt (b : Byte) : (s.setSound b).dt = s.dt := rfl
@[simp] theorem State.setSound_st (b : Byte) : (s.setSound b).st = b := rfl
@[simp] theorem State.setSound_key (b : Byte) : (s.setSound b).key = s.key := rfl
@[simp] theorem State.setSound_fb (b : Byte) : (s.setSound b).fb = s.fb := rfl
@[simp] theorem State.setSound_redraw (b : Byte) : (s.setSound b).redraw = s.redraw := rfl
@[simp] theorem State.setSound_runState (b : Byte) : (s.setSound b).runState = s.runState := rfl
@[simp] theorem State.setSound_outcome (b : Byte) : (s.setSound b).outcome = s.outcome := rfl
@[simp] theorem State.setSound_tone (b : Byte) : (s.setSound b).tone = s.tone := rfl
@[simp] theorem State.setSound_draws (b : Byte) : (s.setSound b).draws = s.draws := rfl
@[simp] theorem State.setSound_romLoaded (b : Byte) : (s.setSound b).romLoaded = s.romLoaded := rfl
@[simp] theorem State.setSound_reg (b : Byte) (q : Reg) : (s.setSound b).reg q = s.reg q := rfl
@[simp] theorem State.setSound_byteAt (b : Byte) (q : Nat) : (s.setSound b).byteAt q = s.byteAt q := rfl
@[simp] theorem State.setSound_cell (b : Byte) (q : Nat) : (s.setSound b).cell q = s.cell q := rfl
@[simp] theorem State.setSound_pressed (b : Byte) (q : Key) : (s.setSound b).pressed q = s.pressed q := rfl
@[simp] theorem State.setSound_ea (b : Byte) (q : Nat) : (s.setSound b).ea q = s.ea q := rfl

/-! ### `State.setScreen` -/

@[simp] theorem State.setScreen_mem (f : Vector (BitVec 64) 32) : (s.setScreen f).mem = s.mem := rfl
@[simp] theorem State.setScreen_v (f : Vector (BitVec 64) 32) : (s.setScreen f).v = s.v := rfl
@[simp] theorem State.setScreen_i (f : Vector (BitVec 64) 32) : (s.setScreen f).i = s.i := rfl
@[simp] theorem State.setScreen_pc (f : Vector (BitVec 64) 32) : (s.setScreen f).pc = s.pc := rfl
@[simp] theorem State.setScreen_stack (f : Vector (BitVec 64) 32) : (s.setScreen f).stack = s.stack := rfl
@[simp] theorem State.setScreen_sp (f : Vector (BitVec 64) 32) : (s.setScreen f).sp = s.sp := rfl
@[simp] theorem State.setScreen_dt (f : Vector (BitVec 64) 32) : (s.setScreen f).dt = s.dt := rfl
@[simp] theorem State.setScreen_st (f : Vector (BitVec 64) 32) : (s.setScreen f).st = s.st := rfl
@[simp] theorem State.setScreen_key (f : Vector (BitVec 64) 32) : (s.setScreen f).key = s.key := rfl
@[simp] theorem State.setScreen_fb (f : Vector (BitVec 64) 32) : (s.setScreen f).fb = f := rfl
@[simp] theorem State.setScreen_redraw (f : Vector (BitVec 64) 32) : (s.setScreen f).redraw = true := rfl
@[simp] theorem State.setScreen_runState (f : Vector (BitVec 64) 32) : (s.setScreen f).runState = s.runState := rfl
@[simp] theorem State.setScreen_outcome (f : Vector (BitVec 64) 32) : (s.setScreen f).outcome = s.outcome := rfl
@[simp] theorem State.setScreen_tone (f : Vector (BitVec 64) 32) : (s.setScreen f).tone = s.tone := rfl
@[simp] theorem State.setScreen_draws (f : Vector (BitVec 64) 32) : (s.setScreen f).draws = s.draws := rfl
@[simp] theorem State.setScreen_romLoaded (f : Vector (BitVec 64) 32) : (s.setScreen f).romLoaded = s.romLoaded := rfl
@[simp] theorem State.setScreen_reg (f : Vector (BitVec 64) 32) (q : Reg) : (s.setScreen f).reg q = s.reg q := rfl
@[simp] theorem State.setScreen_byteAt (f : Vector (BitVec 64) 32) (q : Nat) : (s.setScreen f).byteAt q = s.byteAt q := rfl
@[simp] theorem State.setScreen_pressed (f : Vector (BitVec 64) 32) (q : Key) : (s.setScreen f).pressed q = s.pressed q := rfl
@[simp] theorem State.setScreen_ea (f : Vector (BitVec 64) 32) (q : Nat) : (s.setScreen f).ea q = s.ea q := rfl

/-! ### `State.store` -/

@[simp] theorem State.store_mem (k : Nat) (bs : List Byte) : (s.store k bs).mem = Memory.writeBytes s.mem k bs := rfl
@[simp] theorem State.store_v (k : Nat) (bs : List Byte) : (s.store k bs).v = s.v := rfl
@[simp] theorem State.store_i (k : Nat) (bs : List Byte) : (s.store k bs).i = s.i := rfl
@[simp] theorem State.store_pc (k : Nat) (bs : List Byte) : (s.store k bs).pc = s.pc := rfl
@[simp] theorem State.store_stack (k : Nat) (bs : List Byte) : (s.store k bs).stack = s.stack := rfl
@[simp] theorem State.store_sp (k : Nat) (bs : List Byte) : (s.store k bs).sp = s.sp := rfl
@[simp] theorem State.store_dt (k : Nat) (bs : List Byte) : (s.store k bs).dt = s.dt := rfl
@[simp] theorem State.store_st (k : Nat) (bs : List Byte) : (s.store k bs).st = s.st := rfl
@[simp] theorem State.store_key (k : Nat) (bs : List Byte) : (s.store k bs).key = s.key := rfl
@[simp] theorem State.store_fb (k : Nat) (bs : List Byte) : (s.store k bs).fb = s.fb := rfl
@[simp] theorem State.store_redraw (k : Nat) (bs : List Byte) : (s.store k bs).redraw = s.redraw := rfl
@[simp] theorem State.store_runState (k : Nat) (bs : List Byte) : (s.store k bs).runState = s.runState := rfl
@[simp] theorem State.store_outcome (k : Nat) (bs : List Byte) : (s.store k bs).outcome = s.outcome := rfl
@[simp] theorem State.store_tone (k : Nat) (bs : List Byte) : (s.store k bs).tone = s.tone := rfl
@[simp] theorem State.store_draws (k : Nat) (bs : List Byte) : (s.store k bs).draws = s.draws := rfl
@[simp] theorem State.store_romLoaded (k : Nat) (bs : List Byte) : (s.store k bs).romLoaded = s.romLoaded := rfl
@[simp] theorem State.store_reg (k : Nat) (bs : List Byte) (q : Reg) : (s.store k bs).reg q = s.reg q := rfl
@[simp] theorem State.store_cell (k : Nat) (bs : List Byte) (q : Nat) : (s.store k bs).cell q = s.cell q := rfl
@[simp] theorem State.store_pressed (k : Nat) (bs : List Byte) (q : Key) : (s.store k bs).pressed q = s.pressed q := rfl
@[simp] theorem State.store_ea (k : Nat) (bs : List Byte) (q : Nat) : (s.store k bs).ea q = s.ea q := rfl

/-! ### `State.advance` -/

@[simp] theorem State.advance_mem : (s.advance).mem = s.mem := rfl
@[simp] theorem State.advance_v : (s.advance).v = s.v := rfl
@[simp] theorem State.advance_i : (s.advance).i = s.i := rfl
@[simp] theorem State.advance_pc : (s.advance).pc = s.pc + 2 := rfl
@[simp] theorem State.advance_stack : (s.advance).stack = s.stack := rfl
@[simp] theorem State.advance_sp : (s.advance).sp = s.sp := rfl
@[simp] theorem State.advance_dt : (s.advance).dt = s.dt := rfl
@[simp] theorem State.advance_st : (s.advance).st = s.st := rfl
@[simp] theorem State.advance_key : (s.advance).key = s.key := rfl
@[simp] theorem State.advance_fb : (s.advance).fb = s.fb := rfl
@[simp] theorem State.advance_redraw : (s.advance).redraw = s.redraw := rfl
@[simp] theorem State.advance_runState : (s.advance).runState = s.runState := rfl
@[simp] theorem State.advance_outcome : (s.advance).outcome = s.outcome := rfl
@[simp] theorem State.advance_tone : (s.advance).tone = s.tone := rfl
@[simp] theorem State.advance_draws : (s.advance).draws = s.draws := rfl
@[simp] theorem State.advance_romLoaded : (s.advance).romLoaded = s.romLoaded := rfl
@[simp] theorem State.advance_reg (q : Reg) : (s.advance).reg q = s.reg q := rfl
@[simp] theorem State.advance_byteAt (q : Nat) : (s.advance).byteAt q = s.byteAt q := rfl
@[simp] theorem State.advance_cell (q : Nat) : (s.advance).cell q = s.cell q := rfl
@[simp] theorem State.advance_pressed (q : Key) : (s.advance).pressed q = s.pressed q := rfl
@[simp] theorem State.advance_ea (q : Nat) : (s.advance).ea q = s.ea q := rfl

/-! ### `State.skipIf` -/

@[simp] theorem State.skipIf_mem (c : Bool) : (s.skipIf c).mem = s.mem := rfl
@[simp] theorem State.skipIf_v (c : Bool) : (s.skipIf c).v = s.v := rfl
@[simp] theorem State.skipIf_i (c : Bool) : (s.skipIf c).i = s.i := rfl
@[simp] theorem State.skipIf_pc (c : Bool) : (s.skipIf c).pc = if c then s.pc + 4 else s.pc + 2 := rfl
@[simp] theorem State.skipIf_stack (c : Bool) : (s.skipIf c).stack = s.stack := rfl
@[simp] theorem State.skipIf_sp (c : Bool) : (s.skipIf c).sp = s.sp := rfl
@[simp] theorem State.skipIf_dt (c : Bool) : (s.skipIf c).dt = s.dt := rfl
@[simp] theorem State.skipIf_st (c : Bool) : (s.skipIf c).st = s.st := rfl
@[simp] theorem State.skipIf_key (c : Bool) : (s.skipIf c).key = s.key := rfl
@[simp] theorem State.skipIf_fb (c : Bool) : (s.skipIf c).fb = s.fb := rfl
@[simp] theorem State.skipIf_redraw (c : Bool) : (s.skipIf c).redraw = s.redraw := rfl
@[simp] theorem State.skipIf_runState (c : Bool) : (s.skipIf c).runState = s.runState := rfl
@[simp] theorem State.skipIf_outcome (c : Bool) : (s.skipIf c).outcome = s.outcome := rfl
@[simp] theorem State.skipIf_tone (c : Bool) : (s.skipIf c).tone = s.tone := rfl
@[simp] theorem State.skipIf_draws (c : Bool) : (s.skipIf c).draws = s.draws := rfl
@[simp] theorem State.skipIf_romLoaded (c : Bool) : (s.skipIf c).romLoaded = s.romLoaded := rfl
@[simp] theorem State.skipIf_reg (c : Bool) (q : Reg) : (s.skipIf c).reg q = s.reg q := rfl
@[simp] theorem State.skipIf_byteAt (c : Bool) (q : Nat) : (s.skipIf c).byteAt q = s.byteAt q := rfl
@[simp] theorem State.skipIf_cell (c : Bool) (q : Nat) : (s.skipIf c).cell q = s.cell q := rfl
@[simp] theorem State.skipIf_pressed (c : Bool) (q : Key) : (s.skipIf c).pressed q = s.pressed q := rfl
@[simp] theorem State.skipIf_ea (c : Bool) (q : Nat) : (s.skipIf c).ea q = s.ea q := rfl

/-! ### `State.raise` -/

@[simp] theorem State.raise_mem (c : Cause) : (s.raise c).mem = s.mem := rfl
@[simp] theorem State.raise_v (c : Cause) : (s.raise c).v = s.v := rfl
@[simp] theorem State.raise_i (c : Cause) : (s.raise c).i = s.i := rfl
@[simp] theorem State.raise_pc (c : Cause) : (s.raise c).pc = s.pc := rfl
@[simp] theorem State.raise_stack (c : Cause) : (s.raise c).stack = s.stack := rfl
@[simp] theorem State.raise_sp (c : Cause) : (s.raise c).sp = s.sp := rfl
@[simp] theorem State.raise_dt (c : Cause) : (s.raise c).dt = s.dt := rfl
@[simp] theorem State.raise_st (c : Cause) : (s.raise c).st = s.st := rfl
@[simp] theorem State.raise_key (c : Cause) : (s.raise c).key = s.key := rfl
@[simp] theorem State.raise_fb (c : Cause) : (s.raise c).fb = s.fb := rfl
@[simp] theorem State.raise_redraw (c : Cause) : (s.raise c).redraw = s.redraw := rfl
@[simp] theorem State.raise_runState (c : Cause) : (s.raise c).runState = .halted c := rfl
@[simp] theorem State.raise_outcome (c : Cause) : (s.raise c).outcome = s.outcome := rfl
@[simp] theorem State.raise_tone (c : Cause) : (s.raise c).tone = s.tone := rfl
@[simp] theorem State.raise_draws (c : Cause) : (s.raise c).draws = s.draws := rfl
@[simp] theorem State.raise_romLoaded (c : Cause) : (s.raise c).romLoaded = s.romLoaded := rfl
@[simp] theorem State.raise_reg (c : Cause) (q : Reg) : (s.raise c).reg q = s.reg q := rfl
@[simp] theorem State.raise_byteAt (c : Cause) (q : Nat) : (s.raise c).byteAt q = s.byteAt q := rfl
@[simp] theorem State.raise_cell (c : Cause) (q : Nat) : (s.raise c).cell q = s.cell q := rfl
@[simp] theorem State.raise_pressed (c : Cause) (q : Key) : (s.raise c).pressed q = s.pressed q := rfl
@[simp] theorem State.raise_ea (c : Cause) (q : Nat) : (s.raise c).ea q = s.ea q := rfl

/-! ### `State.tick` -/

@[simp] theorem State.tick_mem : (s.tick).mem = s.mem := rfl
@[simp] theorem State.tick_v : (s.tick).v = s.v := rfl
@[simp] theorem State.tick_i : (s.tick).i = s.i := rfl
@[simp] theorem State.tick_pc : (s.tick).pc = s.pc := rfl
@[simp] theorem State.tick_stack : (s.tick).stack = s.stack := rfl
@[simp] theorem State.tick_sp : (s.tick).sp = s.sp := rfl
@[simp] theorem State.tick_dt : (s.tick).dt = countDown s.dt := rfl
@[simp] theorem State.tick_st : (s.tick).st = countDown s.st := rfl
@[simp] theorem State.tick_key : (s.tick).key = s.key := rfl
@[simp] theorem State.tick_fb : (s.tick).fb = s.fb := rfl
@[simp] theorem State.tick_redraw : (s.tick).redraw = s.redraw := rfl
@[simp] theorem State.tick_runState : (s.tick).runState = s.runState := rfl
@[simp] theorem State.tick_outcome : (s.tick).outcome = s.outcome := rfl
@[simp] theorem State.tick_tone : (s.tick).tone = s.tone := rfl
@[simp] theorem State.tick_draws : (s.tick).draws = s.draws := rfl
@[simp] theorem State.tick_romLoaded : (s.tick).romLoaded = s.romLoaded := rfl
@[simp] theorem State.tick_reg (q : Reg) : (s.tick).reg q = s.reg q := rfl
@[simp] theorem State.tick_byteAt (q : Nat) : (s.tick).byteAt q = s.byteAt q := rfl
@[simp] theorem State.tick_cell (q : Nat) : (s.tick).cell q = s.cell q := rfl
@[simp] theorem State.tick_pressed (q : Key) : (s.tick).pressed q = s.pressed q := rfl
@[simp] theorem State.tick_ea (q : Nat) : (s.tick).ea q = s.ea q := rfl

/-! ### `State.report` -/

@[simp] theorem State.report_mem (o : CycleOutcome) (b : Bool) : (s.report o b).mem = s.mem := rfl
@[simp] theorem State.report_v (o : CycleOutcome) (b : Bool) : (s.report o b).v = s.v := rfl
@[simp] theorem State.report_i (o : CycleOutcome) (b : Bool) : (s.report o b).i = s.i := rfl
@[simp] theorem State.report_pc (o : CycleOutcome) (b : Bool) : (s.report o b).pc = s.pc := rfl
@[simp] theorem State.report_stack (o : CycleOutcome) (b : Bool) : (s.report o b).stack = s.stack := rfl
@[simp] theorem State.report_sp (o : CycleOutcome) (b : Bool) : (s.report o b).sp = s.sp := rfl
@[simp] theorem State.report_dt (o : CycleOutcome) (b : Bool) : (s.report o b).dt = s.dt := rfl
@[simp] theorem State.report_st (o : CycleOutcome) (b : Bool) : (s.report o b).st = s.st := rfl
@[simp] theorem State.report_key (o : CycleOutcome) (b : Bool) : (s.report o b).key = s.key := rfl
@[simp] theorem State.report_fb (o : CycleOutcome) (b : Bool) : (s.report o b).fb = s.fb := rfl
@[simp] theorem State.report_redraw (o : CycleOutcome) (b : Bool) : (s.report o b).redraw = s.redraw := rfl
@[simp] theorem State.report_runState (o : CycleOutcome) (b : Bool) : (s.report o b).runState = s.runState := rfl
@[simp] theorem State.report_outcome (o : CycleOutcome) (b : Bool) : (s.report o b).outcome = some o := rfl
@[simp] theorem State.report_tone (o : CycleOutcome) (b : Bool) : (s.report o b).tone = b := rfl
@[simp] theorem State.report_draws (o : CycleOutcome) (b : Bool) : (s.report o b).draws = s.draws := rfl
@[simp] theorem State.report_romLoaded (o : CycleOutcome) (b : Bool) : (s.report o b).romLoaded = s.romLoaded := rfl
@[simp] theorem State.report_reg (o : CycleOutcome) (b : Bool) (q : Reg) : (s.report o b).reg q = s.reg q := rfl
@[simp] theorem State.report_byteAt (o : CycleOutcome) (b : Bool) (q : Nat) : (s.report o b).byteAt q = s.byteAt q := rfl
@[simp] theorem State.report_cell (o : CycleOutcome) (b : Bool) (q : Nat) : (s.report o b).cell q = s.cell q := rfl
@[simp] theorem State.report_pressed (o : CycleOutcome) (b : Bool) (q : Key) : (s.report o b).pressed q = s.pressed q := rfl
@[simp] theorem State.report_ea (o : CycleOutcome) (b : Bool) (q : Nat) : (s.report o b).ea q = s.ea q := rfl

/-! ### `State.setKey` -/

@[simp] theorem State.setKey_mem (k : Key) (b : Bool) : (s.setKey k b).mem = s.mem := rfl
@[simp] theorem State.setKey_v (k : Key) (b : Bool) : (s.setKey k b).v = s.v := rfl
@[simp] theorem State.setKey_i (k : Key) (b : Bool) : (s.setKey k b).i = s.i := rfl
@[simp] theorem State.setKey_pc (k : Key) (b : Bool) : (s.setKey k b).pc = s.pc := rfl
@[simp] theorem State.setKey_stack (k : Key) (b : Bool) : (s.setKey k b).stack = s.stack := rfl
@[simp] theorem State.setKey_sp (k : Key) (b : Bool) : (s.setKey k b).sp = s.sp := rfl
@[simp] theorem State.setKey_dt (k : Key) (b : Bool) : (s.setKey k b).dt = s.dt := rfl
@[simp] theorem State.setKey_st (k : Key) (b : Bool) : (s.setKey k b).st = s.st := rfl
@[simp] theorem State.setKey_key (k : Key) (b : Bool) : (s.setKey k b).key = s.key.set k b := rfl
@[simp] theorem State.setKey_fb (k : Key) (b : Bool) : (s.setKey k b).fb = s.fb := rfl
@[simp] theorem State.setKey_redraw (k : Key) (b : Bool) : (s.setKey k b).redraw = s.redraw := rfl
@[simp] theorem State.setKey_runState (k : Key) (b : Bool) : (s.setKey k b).runState = s.runState := rfl
@[simp] theorem State.setKey_outcome (k : Key) (b : Bool) : (s.setKey k b).outcome = s.outcome := rfl
@[simp] theorem State.setKey_tone (k : Key) (b : Bool) : (s.setKey k b).tone = s.tone := rfl
@[simp] theorem State.setKey_draws (k : Key) (b : Bool) : (s.setKey k b).draws = s.draws := rfl
@[simp] theorem State.setKey_romLoaded (k : Key) (b : Bool) : (s.setKey k b).romLoaded = s.romLoaded := rfl
@[simp] theorem State.setKey_reg (k : Key) (b : Bool) (q : Reg) : (s.setKey k b).reg q = s.reg q := rfl
@[simp] theorem State.setKey_byteAt (k : Key) (b : Bool) (q : Nat) : (s.setKey k b).byteAt q = s.byteAt q := rfl
@[simp] theorem State.setKey_cell (k : Key) (b : Bool) (q : Nat) : (s.setKey k b).cell q = s.cell q := rfl
@[simp] theorem State.setKey_ea (k : Key) (b : Bool) (q : Nat) : (s.setKey k b).ea q = s.ea q := rfl

/-! ### `State.clearRedraw` -/

@[simp] theorem State.clearRedraw_mem : (s.clearRedraw).mem = s.mem := rfl
@[simp] theorem State.clearRedraw_v : (s.clearRedraw).v = s.v := rfl
@[simp] theorem State.clearRedraw_i : (s.clearRedraw).i = s.i := rfl
@[simp] theorem State.clearRedraw_pc : (s.clearRedraw).pc = s.pc := rfl
@[simp] theorem State.clearRedraw_stack : (s.clearRedraw).stack = s.stack := rfl
@[simp] theorem State.clearRedraw_sp : (s.clearRedraw).sp = s.sp := rfl
@[simp] theorem State.clearRedraw_dt : (s.clearRedraw).dt = s.dt := rfl
@[simp] theorem State.clearRedraw_st : (s.clearRedraw).st = s.st := rfl
@[simp] theorem State.clearRedraw_key : (s.clearRedraw).key = s.key := rfl
@[simp] theorem State.clearRedraw_fb : (s.clearRedraw).fb = s.fb := rfl
@[simp] theorem State.clearRedraw_redraw : (s.clearRedraw).redraw = false := rfl
@[simp] theorem State.clearRedraw_runState : (s.clearRedraw).runState = s.runState := rfl
@[simp] theorem State.clearRedraw_outcome : (s.clearRedraw).outcome = s.outcome := rfl
@[simp] theorem State.clearRedraw_tone : (s.clearRedraw).tone = s.tone := rfl
@[simp] theorem State.clearRedraw_draws : (s.clearRedraw).draws = s.draws := rfl
@[simp] theorem State.clearRedraw_romLoaded : (s.clearRedraw).romLoaded = s.romLoaded := rfl
@[simp] theorem State.clearRedraw_reg (q : Reg) : (s.clearRedraw).reg q = s.reg q := rfl
@[simp] theorem State.clearRedraw_byteAt (q : Nat) : (s.clearRedraw).byteAt q = s.byteAt q := rfl
@[simp] theorem State.clearRedraw_cell (q : Nat) : (s.clearRedraw).cell q = s.cell q := rfl
@[simp] theorem State.clearRedraw_pressed (q : Key) : (s.clearRedraw).pressed q = s.pressed q := rfl
@[simp] theorem State.clearRedraw_ea (q : Nat) : (s.clearRedraw).ea q = s.ea q := rfl

/-! ### `State.random` -/

@[simp] theorem State.random_mem (x : Reg) (nn r : Byte) : (s.random x nn r).mem = s.mem := rfl
@[simp] theorem State.random_v (x : Reg) (nn r : Byte) : (s.random x nn r).v = (s.setReg x (r &&& nn)).v := rfl
@[simp] theorem State.random_i (x : Reg) (nn r : Byte) : (s.random x nn r).i = s.i := rfl
@[simp] theorem State.random_pc (x : Reg) (nn r : Byte) : (s.random x nn r).pc = s.pc + 2 := rfl
@[simp] theorem State.random_stack (x : Reg) (nn r : Byte) : (s.random x nn r).stack = s.stack := rfl
@[simp] theorem State.random_sp (x : Reg) (nn r : Byte) : (s.random x nn r).sp = s.sp := rfl
@[simp] theorem State.random_dt (x : Reg) (nn r : Byte) : (s.random x nn r).dt = s.dt := rfl
@[simp] theorem State.random_st (x : Reg) (nn r : Byte) : (s.random x nn r).st = s.st := rfl
@[simp] theorem State.random_key (x : Reg) (nn r : Byte) : (s.random x nn r).key = s.key := rfl
@[simp] theorem State.random_fb (x : Reg) (nn r : Byte) : (s.random x nn r).fb = s.fb := rfl
@[simp] theorem State.random_redraw (x : Reg) (nn r : Byte) : (s.random x nn r).redraw = s.redraw := rfl
@[simp] theorem State.random_runState (x : Reg) (nn r : Byte) : (s.random x nn r).runState = s.runState := rfl
@[simp] theorem State.random_outcome (x : Reg) (nn r : Byte) : (s.random x nn r).outcome = s.outcome := rfl
@[simp] theorem State.random_tone (x : Reg) (nn r : Byte) : (s.random x nn r).tone = s.tone := rfl
@[simp] theorem State.random_draws (x : Reg) (nn r : Byte) : (s.random x nn r).draws = s.draws + 1 := rfl
@[simp] theorem State.random_romLoaded (x : Reg) (nn r : Byte) : (s.random x nn r).romLoaded = s.romLoaded := rfl
@[simp] theorem State.random_reg (x : Reg) (nn r : Byte) (q : Reg) :
    (s.random x nn r).reg q = (s.setReg x (r &&& nn)).reg q := rfl
@[simp] theorem State.random_byteAt (x : Reg) (nn r : Byte) (q : Nat) : (s.random x nn r).byteAt q = s.byteAt q := rfl
@[simp] theorem State.random_cell (x : Reg) (nn r : Byte) (q : Nat) : (s.random x nn r).cell q = s.cell q := rfl
@[simp] theorem State.random_pressed (x : Reg) (nn r : Byte) (q : Key) : (s.random x nn r).pressed q = s.pressed q := rfl
@[simp] theorem State.random_ea (x : Reg) (nn r : Byte) (q : Nat) : (s.random x nn r).ea q = s.ea q := rfl

/-! ### `State.resetAt` and `State.hostReset` -/

@[simp] theorem State.resetAt_mem (c : Config) : (State.resetAt c).mem = Memory.writeBytes [] 0 c.font.toList := rfl
@[simp] theorem State.resetAt_v (c : Config) : (State.resetAt c).v = Vector.replicate 16 0 := rfl
@[simp] theorem State.resetAt_i (c : Config) : (State.resetAt c).i = 0 := rfl
@[simp] theorem State.resetAt_pc (c : Config) : (State.resetAt c).pc = 0x200 := rfl
@[simp] theorem State.resetAt_stack (c : Config) : (State.resetAt c).stack = Vector.replicate 16 0 := rfl
@[simp] theorem State.resetAt_sp (c : Config) : (State.resetAt c).sp = 0 := rfl
@[simp] theorem State.resetAt_dt (c : Config) : (State.resetAt c).dt = 0 := rfl
@[simp] theorem State.resetAt_st (c : Config) : (State.resetAt c).st = 0 := rfl
@[simp] theorem State.resetAt_key (c : Config) : (State.resetAt c).key = Vector.replicate 16 false := rfl
@[simp] theorem State.resetAt_fb (c : Config) : (State.resetAt c).fb = Vector.replicate 32 0 := rfl
@[simp] theorem State.resetAt_redraw (c : Config) : (State.resetAt c).redraw = false := rfl
@[simp] theorem State.resetAt_runState (c : Config) : (State.resetAt c).runState = .running := rfl
@[simp] theorem State.resetAt_outcome (c : Config) : (State.resetAt c).outcome = none := rfl
@[simp] theorem State.resetAt_tone (c : Config) : (State.resetAt c).tone = false := rfl
@[simp] theorem State.resetAt_draws (c : Config) : (State.resetAt c).draws = 0 := rfl
@[simp] theorem State.resetAt_romLoaded (c : Config) : (State.resetAt c).romLoaded = false := rfl

@[simp] theorem State.hostReset_mem (c : Config) : (s.hostReset c).mem = (State.resetAt c).mem := rfl
@[simp] theorem State.hostReset_v (c : Config) : (s.hostReset c).v = (State.resetAt c).v := rfl
@[simp] theorem State.hostReset_i (c : Config) : (s.hostReset c).i = (State.resetAt c).i := rfl
@[simp] theorem State.hostReset_pc (c : Config) : (s.hostReset c).pc = (State.resetAt c).pc := rfl
@[simp] theorem State.hostReset_stack (c : Config) : (s.hostReset c).stack = (State.resetAt c).stack := rfl
@[simp] theorem State.hostReset_sp (c : Config) : (s.hostReset c).sp = (State.resetAt c).sp := rfl
@[simp] theorem State.hostReset_dt (c : Config) : (s.hostReset c).dt = (State.resetAt c).dt := rfl
@[simp] theorem State.hostReset_st (c : Config) : (s.hostReset c).st = (State.resetAt c).st := rfl
@[simp] theorem State.hostReset_key (c : Config) : (s.hostReset c).key = (State.resetAt c).key := rfl
@[simp] theorem State.hostReset_fb (c : Config) : (s.hostReset c).fb = (State.resetAt c).fb := rfl
@[simp] theorem State.hostReset_redraw (c : Config) : (s.hostReset c).redraw = (State.resetAt c).redraw := rfl
@[simp] theorem State.hostReset_runState (c : Config) : (s.hostReset c).runState = (State.resetAt c).runState := rfl
@[simp] theorem State.hostReset_outcome (c : Config) : (s.hostReset c).outcome = (State.resetAt c).outcome := rfl
@[simp] theorem State.hostReset_tone (c : Config) : (s.hostReset c).tone = (State.resetAt c).tone := rfl
@[simp] theorem State.hostReset_draws (c : Config) : (s.hostReset c).draws = s.draws := rfl
@[simp] theorem State.hostReset_romLoaded (c : Config) : (s.hostReset c).romLoaded = (State.resetAt c).romLoaded := rfl
@[simp] theorem State.hostReset_byteAt (c : Config) (q : Nat) :
    (s.hostReset c).byteAt q = (State.resetAt c).byteAt q := rfl

/-! ### The compositions, by their parts -/

@[simp] theorem State.resultThenFlag_eq (x : Reg) (a b : Byte) :
    s.resultThenFlag x a b = ((s.setReg x a).setReg regF b).advance := rfl

@[simp] theorem State.flagThenResult_eq (x : Reg) (b a : Byte) :
    s.flagThenResult x b a = ((s.setReg regF b).setReg x a).advance := rfl

@[simp] theorem State.hostSkip_eq : s.hostSkip = s.advance := rfl

end Sys2Proof.Machine
end

