-- ==== Sys2Proof/Laws/Ops.lean ====
section
/-! SUPPORT. One lemma per shared operation that says everything it can do; proofs cite these and do
not unfold the operations. -/

namespace Sys2Proof.Machine

variable (s : State)

/-! ### Registers -/

/-- A register after a register write. -/
theorem State.reg_setReg (r q : Reg) (b : Byte) :
    (s.setReg r b).reg q = if q = r then b else s.reg q := by
  unfold State.reg State.setReg
  by_cases h : q = r
  · subst h; simp
  · have : (r : Nat) ≠ q := fun e => h (Fin.ext e.symm)
    simp [h, Vector.getElem_set_ne, this]

@[simp] theorem State.reg_setReg_same (r : Reg) (b : Byte) : (s.setReg r b).reg r = b := by
  simp [State.reg_setReg]

theorem State.reg_setReg_other (r q : Reg) (b : Byte) (h : q ≠ r) :
    (s.setReg r b).reg q = s.reg q := by simp [State.reg_setReg, h]

/-- A register list is determined by its registers. -/
theorem State.v_ext (t : State) (h : ∀ r, t.reg r = s.reg r) : t.v = s.v := by
  apply Vector.ext
  intro k hk
  exact h ⟨k, hk⟩

theorem mem_regsUpTo (x j : Reg) : j ∈ regsUpTo x ↔ j ≤ x := by
  have : ∀ x j : Reg, j ∈ regsUpTo x ↔ j ≤ x := by decide
  exact this x j

theorem length_regsUpTo : ∀ x : Reg, (regsUpTo x).length = blockLength x := by decide

theorem getElem_regsUpTo (x k : Reg) (h : k ≤ x) : (regsUpTo x)[k.val]? = some k := by
  have : ∀ x k : Reg, k ≤ x → (regsUpTo x)[k.val]? = some k := by decide
  exact this x k h

/-! ### The call stack -/

/-- A push succeeds exactly where the stack is not full, and then does this. -/
theorem State.push_eq_some (a : Word) (t : State) :
    s.push a = some t ↔ ∃ _h : s.sp.val < 16,
      t = { s with stack := s.stack.set s.sp.val a, sp := ⟨s.sp.val + 1, by omega⟩ } := by
  unfold State.push
  split
  · rename_i h; simp [h, eq_comm]
  · rename_i h; simp [h]

theorem State.push_eq_none (a : Word) : s.push a = none ↔ s.sp.val = 16 := by
  unfold State.push
  split
  · rename_i h; simp; omega
  · simp; omega

/-- A pop succeeds exactly where the stack is not empty, and then does this. -/
theorem State.pop_eq_some (a : Word) (t : State) :
    s.pop = some (a, t) ↔ ∃ _h : s.sp.val ≠ 0,
      a = s.stack[s.sp.val - 1]'(by omega) ∧ t = { s with sp := ⟨s.sp.val - 1, by omega⟩ } := by
  unfold State.pop
  split
  · rename_i h; simp [h]
  · rename_i h; simp [h, eq_comm]

theorem State.pop_eq_none : s.pop = none ↔ s.sp.val = 0 := by
  unfold State.pop
  split
  · rename_i h; simp [h]
  · rename_i h; simp [h]

/-! ### Fault checks -/

/-- A block access either runs inside memory or halts the core with nothing else changed. -/
theorem withBlock_cases (len : Nat) (act : State → State) :
    (s.i.toNat + len ≤ 4096 ∧ withBlock s len act = .next (act s)) ∨
    (4096 < s.i.toNat + len ∧ withBlock s len act = .next (s.raise outOfMemory)) := by
  unfold withBlock inMemory
  by_cases h : s.i.toNat + len ≤ 4096
  · exact .inl ⟨h, by simp [h]⟩
  · exact .inr ⟨by simpa using h, by simp [h]⟩

/-- A key access either runs on the key `V[X]` numbers or halts the core. -/
theorem withKey_cases (x : Reg) (act : Key → State) :
    (∃ h : (s.reg x).toNat < 16, withKey s x act = .next (act ⟨(s.reg x).toNat, h⟩)) ∨
    (16 ≤ (s.reg x).toNat ∧ withKey s x act = .next (s.raise (.keyIndexOutOfRange (s.reg x)))) := by
  unfold withKey keyOf
  by_cases h : (s.reg x).toNat < 16
  · exact .inl ⟨h, by simp [h]⟩
  · exact .inr ⟨by omega, by simp [h]⟩

/-- The lowest pressed key, if any. -/
theorem State.lowestKey_eq_some (k : Key) :
    s.lowestKey = some k ↔ s.pressed k = true ∧ ∀ j < k, s.pressed j = false := by
  unfold State.lowestKey
  generalize s.pressed = f
  have key : ∀ f : Fin 16 → Bool, ∀ k,
      ([0, 1, 2, 3, 4, 5, 6, 7, 8, 9, 10, 11, 12, 13, 14, 15] : List Key).find? f = some k ↔
        f k = true ∧ ∀ j < k, f j = false := by
    intro f k
    have e : ([0, 1, 2, 3, 4, 5, 6, 7, 8, 9, 10, 11, 12, 13, 14, 15] : List Key) = List.finRange 16 := by
      decide
    rw [e, List.find?_eq_some_iff_getElem]
    constructor
    · rintro ⟨hk, i, hi, rfl, hlow⟩
      refine ⟨hk, fun j hj => ?_⟩
      have hj' : (j : Nat) < i := by simpa [Fin.lt_def] using hj
      simpa using hlow j hj'
    · rintro ⟨hk, hlow⟩
      exact ⟨hk, k.val, by simp, by simp, fun j hj => by
        have := hlow ⟨j, by omega⟩ (by simpa [Fin.lt_def] using hj)
        simpa using this⟩
  exact key f k

theorem State.lowestKey_eq_none : s.lowestKey = none ↔ ∀ k, s.pressed k = false := by
  unfold State.lowestKey
  rw [List.find?_eq_none]
  have : ∀ k : Key, k ∈ ([0, 1, 2, 3, 4, 5, 6, 7, 8, 9, 10, 11, 12, 13, 14, 15] : List Key) := by decide
  constructor
  · intro h k; simpa using h k (this k)
  · intro h k _; simp [h k]

/-! ### Block transfers -/

/-- Each register after a block load: the listed ones hold the bytes from `base` on. -/
theorem State.reg_loadRegs (base : Nat) (js : List Reg) (q : Reg) :
    (s.loadRegs base js).reg q = if q ∈ js then s.byteAt (base + q.val) else s.reg q := by
  have gen : ∀ t : State, (js.foldl (fun t j => t.setReg j (s.byteAt (base + j.val))) t).reg q
      = if q ∈ js then s.byteAt (base + q.val) else t.reg q := by
    induction js with
    | nil => simp
    | cons j js ih =>
      intro t
      rw [List.foldl_cons, ih, State.reg_setReg]
      by_cases h1 : q ∈ js <;> by_cases h2 : q = j <;> simp [h1, h2]
  exact gen s

/-- A block load writes registers and nothing else. -/
theorem State.loadRegs_eq (base : Nat) (js : List Reg) :
    ∃ v, s.loadRegs base js = { s with v := v } := by
  have gen : ∀ t : State, (∃ v, t = { s with v := v }) →
      ∃ v, js.foldl (fun t j => t.setReg j (s.byteAt (base + j.val))) t = { s with v := v } := by
    induction js with
    | nil => exact fun t h => h
    | cons j js ih =>
      rintro t ⟨v, rfl⟩
      exact ih _ ⟨_, rfl⟩
  exact gen s ⟨_, rfl⟩

/-- Every address outside the stored bytes reads as before. -/
theorem State.byteAt_store_other (base : Nat) (bs : List Byte) (a : Nat)
    (h : a < base ∨ base + bs.length ≤ a) : (s.store base bs).byteAt a = s.byteAt a :=
  Memory.read_writeBytes_other s.mem base bs a h

/-- The stored bytes read back. -/
theorem State.byteAt_store (base : Nat) (bs : List Byte) (k : Nat) (h : Memory.wf s.mem)
    (hb : base + bs.length ≤ 4096) (hk : k < bs.length) :
    (s.store base bs).byteAt (base + k) = bs[k] :=
  Memory.read_writeBytes s.mem base bs k h hb hk

/-! ### Reset at any `FONT` -/

/-- The font taken is what unlisted bytes read as, so writing it lists nothing. -/
theorem State.resetAt_config : State.resetAt config = State.reset := by decide

theorem State.wf_resetAt (c : Config) : Memory.wf (State.resetAt c).mem :=
  Memory.wf_writeBytes [] 0 c.font.toList (by decide) (by simp)

/-- After a reset the bytes of `FONT` stand at 0 to 79, and zero above (R32, R160). -/
theorem State.byteAt_resetAt (c : Config) (a : Nat) :
    (State.resetAt c).byteAt a = if h : a < 80 then c.font[a] else 0 := by
  split
  · rename_i h
    have := State.byteAt_store State.reset 0 c.font.toList a (by decide) (by simp) (by simpa using h)
    rw [Nat.zero_add] at this
    exact this.trans (by simp)
  · rename_i h
    have h' : 80 ≤ a := by omega
    have := State.byteAt_store_other State.reset 0 c.font.toList a (.inr (by simpa using h'))
    exact this.trans (initialByte_above_font a h')

/-! ### The timers -/

theorem countDown_toNat (b : Byte) : (countDown b).toNat = b.toNat - 1 := by
  unfold countDown
  split
  · rename_i h; simp [h]
  · rename_i h
    have : b.toNat ≠ 0 := fun e => h (BitVec.eq_of_toNat_eq (by simpa using e))
    bv_omega

/-! ### Flags -/

theorem flagByte_eq_one (b : Bool) : flagByte b = 1 ↔ b = true := by cases b <;> simp [flagByte]

theorem flagByte_eq_zero (b : Bool) : flagByte b = 0 ↔ b = false := by cases b <;> simp [flagByte]

end Sys2Proof.Machine
end

