-- ==== Sys2Proof/Laws/Display.lean ====
section
/-! SUPPORT. The laws of the framebuffer: one toggle, a blit of distinct cells, and the cells of a
sprite, which are distinct (44_display.md R97). -/

namespace Sys2Proof.Machine

/-- Two framebuffers with the same cells are equal. -/
theorem Screen.ext_lit (f g : Screen) (h : ∀ p, f.lit p = g.lit p) : f = g := by
  apply Vector.ext
  intro y hy
  apply BitVec.eq_of_getLsbD_eq
  intro x hx
  exact h (⟨x, hx⟩, ⟨y, hy⟩)

/-- A toggle changes the one cell it names. -/
theorem Screen.lit_toggle (f : Screen) (p q : Pixel) :
    (f.toggle p).lit q = (f.lit q ^^ decide (q = p)) := by
  obtain ⟨px, py⟩ := p
  obtain ⟨qx, qy⟩ := q
  unfold Screen.lit Screen.toggle
  by_cases h : qy = py
  · subst h
    by_cases hx : qx = px
    · subst hx; simp
    · have : (qx : Nat) ≠ px := fun e => hx (Fin.ext e)
      simp [hx, this]
  · have : (py : Nat) ≠ qy := fun e => h (Fin.ext e.symm)
    simp [h, Vector.getElem_set_ne, this]

/-- A blit of distinct cells is one XOR of the image, and collides where the image meets a cell
that was 1 before. -/
theorem blit_of_nodup (f : Screen) (ps : List Pixel) (h : ps.Nodup) :
    (∀ q, (blit f ps).1.lit q = (f.lit q ^^ decide (q ∈ ps))) ∧
    ((blit f ps).2 = true ↔ ∃ p ∈ ps, f.lit p = true) := by
  have gen : ∀ (fh : Screen × Bool),
      (∀ q, (ps.foldl drawPixel fh).1.lit q = (fh.1.lit q ^^ decide (q ∈ ps))) ∧
      ((ps.foldl drawPixel fh).2 = true ↔ fh.2 = true ∨ ∃ p ∈ ps, fh.1.lit p = true) := by
    induction ps with
    | nil => simp
    | cons p ps ih =>
      intro fh
      obtain ⟨hp, hn⟩ := List.nodup_cons.mp h
      obtain ⟨h1, h2⟩ := ih hn (drawPixel fh p)
      refine ⟨fun q => ?_, ?_⟩
      · rw [List.foldl_cons, h1, drawPixel, Screen.lit_toggle]
        by_cases e : q = p
        · subst e; simp [hp]
        · simp [e]
      · have other : ∀ q ∈ ps, (fh.1.toggle p).lit q = fh.1.lit q := fun q hq => by
          have : q ≠ p := fun e => hp (e ▸ hq)
          simp [Screen.lit_toggle, this]
        rw [List.foldl_cons, h2]
        simp only [drawPixel, Bool.or_eq_true, List.mem_cons, exists_eq_or_imp, or_assoc]
        refine or_congr_right (or_congr_right ?_)
        exact exists_congr fun q => and_congr_right fun hq => by rw [other q hq]
  simpa [blit] using gen (f, false)

/-! ### The cells of a sprite -/

theorem mem_rowPixels (vx vy : Byte) (row : Nat) (b : Byte) (p : Pixel) :
    p ∈ rowPixels vx vy row b ↔
      ∃ col, col < 8 ∧ b.getLsbD (7 - col) = true ∧ p = spritePixel vx vy row col := by
  unfold rowPixels
  rw [List.mem_filterMap]
  constructor
  · rintro ⟨col, hc, h⟩
    split at h <;> simp at h
    exact ⟨col, by simp at hc; omega, by assumption, h.symm⟩
  · rintro ⟨col, hc, h, rfl⟩
    refine ⟨col, ?_, by simp [h]⟩
    interval_cases col <;> simp

theorem mem_spritePixels (vx vy : Byte) (row : Nat) (bs : List Byte) (p : Pixel) :
    p ∈ spritePixels vx vy row bs ↔ ∃ r, ∃ h : r < bs.length, ∃ col, col < 8 ∧
      bs[r].getLsbD (7 - col) = true ∧ p = spritePixel vx vy (row + r) col := by
  induction bs generalizing row with
  | nil => simp [spritePixels]
  | cons b bs ih =>
    rw [spritePixels, List.mem_append, ih, mem_rowPixels]
    constructor
    · rintro (⟨col, h⟩ | ⟨r, h, col, hh⟩)
      · exact ⟨0, by simp, col, by simpa using h⟩
      · exact ⟨r + 1, by simp; omega, col, by simpa [Nat.add_assoc, Nat.add_comm 1] using hh⟩
    · rintro ⟨r, h, col, hh⟩
      cases r with
      | zero => exact .inl ⟨col, by simpa using hh⟩
      | succ r =>
        exact .inr ⟨r, by simpa using h, col, by simpa [Nat.add_assoc, Nat.add_comm 1] using hh⟩

/-- Different places of a sprite of at most 32 rows fall on different cells (R97). -/
theorem spritePixel_inj (vx vy : Byte) (r c r' c' : Nat) (h1 : r < 32) (h2 : r' < 32) (h3 : c < 8)
    (h4 : c' < 8) (h : spritePixel vx vy r c = spritePixel vx vy r' c') : r = r' ∧ c = c' := by
  simp only [spritePixel, Prod.mk.injEq, Fin.ofNat, Fin.mk.injEq] at h
  omega

theorem nodup_rowPixels (vx vy : Byte) (row : Nat) (b : Byte) (hr : row < 32) :
    (rowPixels vx vy row b).Nodup := by
  unfold rowPixels
  rw [List.Nodup, List.pairwise_filterMap]
  have cols : ([0, 1, 2, 3, 4, 5, 6, 7] : List Nat).Pairwise fun a b => a ≠ b ∧ a < 8 ∧ b < 8 := by
    decide
  refine cols.imp ?_
  rintro c c' ⟨hne, h1, h2⟩ p hp q hq rfl
  split at hp <;> simp at hp
  split at hq <;> simp at hq
  exact hne (spritePixel_inj vx vy row c row c' hr hr h1 h2 (hp.trans hq.symm)).2

/-- No cell is touched twice by one sprite (R97). -/
theorem nodup_spritePixels (vx vy : Byte) (row : Nat) (bs : List Byte) (hl : row + bs.length ≤ 32) :
    (spritePixels vx vy row bs).Nodup := by
  induction bs generalizing row with
  | nil => simp [spritePixels]
  | cons b bs ih =>
    simp only [List.length_cons] at hl
    rw [spritePixels, List.nodup_append]
    refine ⟨nodup_rowPixels _ _ _ _ (by omega), ih _ (by omega), ?_⟩
    rintro p hp q hq rfl
    obtain ⟨c, h1, _, e1⟩ := (mem_rowPixels _ _ _ _ _).1 hp
    obtain ⟨r, hr, c', h2, _, e2⟩ := (mem_spritePixels _ _ _ _ _).1 hq
    have := (spritePixel_inj vx vy row c (row + 1 + r) c' (by omega) (by omega) h1 h2
      (e1.symm.trans e2)).1
    omega

/-- Two states with the same 2048 cells hold the same framebuffer (R18). -/
theorem State.fb_ext (s t : State) (h : ∀ c, c < 2048 → t.cell c = s.cell c) : t.fb = s.fb := by
  apply Screen.ext_lit
  rintro ⟨x, y⟩
  have e1 : Fin.ofNat 64 (x.val + 64 * y.val) = x := Fin.ext (by simp [Fin.ofNat])
  have e2 : Fin.ofNat 32 ((x.val + 64 * y.val) / 64) = y := Fin.ext (by simp [Fin.ofNat]; omega)
  have := h (x.val + 64 * y.val) (by omega)
  unfold State.cell at this
  rwa [e1, e2] at this

end Sys2Proof.Machine
end

