-- ==== Sys2Proof/Laws/Encoding.lean ====
section
/-! SUPPORT. The fields of a packed word are the operands it was packed from, a word is packed from its
fields, and an unknown word is reported as itself. -/

namespace Sys2Proof

@[simp] theorem ofNibble_nibbleOf (n : Fin 16) : ofNibble (nibbleOf n) = n := rfl

@[simp] theorem nibbleOf_ofNibble (b : BitVec 4) : nibbleOf (ofNibble b) = b := rfl

section fields
variable (c : BitVec 4) (nnn : Addr) (x y : Reg) (n : BitVec 4) (nn : Byte)

@[simp] theorem classOf_packNNN : classOf (packNNN c nnn) = c := by
  unfold classOf packNNN; ext k hk; simp; grind

@[simp] theorem fieldNNN_packNNN : fieldNNN (packNNN c nnn) = nnn := by
  unfold fieldNNN packNNN; ext k hk; simp; grind

@[simp] theorem classOf_packXNN : classOf (packXNN c x nn) = c := by
  unfold classOf packXNN; ext k hk; simp; grind

@[simp] theorem fieldX_packXNN : fieldX (packXNN c x nn) = x := by
  have : (packXNN c x nn).extractLsb' 8 4 = nibbleOf x := by
    unfold packXNN; ext k hk; simp; grind
  rw [fieldX, this, ofNibble_nibbleOf]

@[simp] theorem fieldNN_packXNN : fieldNN (packXNN c x nn) = nn := by
  unfold fieldNN packXNN; ext k hk; simp; grind

@[simp] theorem classOf_packXYN : classOf (packXYN c x y n) = c := by
  unfold classOf packXYN; ext k hk; simp; grind

@[simp] theorem fieldX_packXYN : fieldX (packXYN c x y n) = x := by
  have : (packXYN c x y n).extractLsb' 8 4 = nibbleOf x := by
    unfold packXYN; ext k hk; simp; grind
  rw [fieldX, this, ofNibble_nibbleOf]

@[simp] theorem fieldY_packXYN : fieldY (packXYN c x y n) = y := by
  have : (packXYN c x y n).extractLsb' 4 4 = nibbleOf y := by
    unfold packXYN; ext k hk; simp; grind
  rw [fieldY, this, ofNibble_nibbleOf]

@[simp] theorem lowNibble_packXYN : lowNibble (packXYN c x y n) = n := by
  unfold lowNibble packXYN; ext k hk; simp; grind

@[simp] theorem fieldN_packXYN : fieldN (packXYN c x y n) = ofNibble n := by
  rw [fieldN, lowNibble_packXYN]

end fields

/-- The bytes of a word, put together again, are the word (20_memory.md R35). -/
@[simp] theorem wordOfBytes_bytes (w : Word) : wordOfBytes (highByte w) (lowByte w) = w := by
  unfold wordOfBytes highByte lowByte
  ext k hk
  simp
  grind

@[simp] theorem highByte_wordOfBytes (hi lo : Byte) : highByte (wordOfBytes hi lo) = hi := by
  unfold wordOfBytes highByte; ext k hk; simp; grind

@[simp] theorem lowByte_wordOfBytes (hi lo : Byte) : lowByte (wordOfBytes hi lo) = lo := by
  unfold wordOfBytes lowByte; ext k hk; simp; grind

/-! ### A word is packed from its fields -/

theorem packXYN_fields (w : Word) :
    packXYN (classOf w) (fieldX w) (fieldY w) (lowNibble w) = w := by
  unfold packXYN classOf fieldX fieldY lowNibble
  simp only [nibbleOf_ofNibble]
  ext k hk; simp; grind

theorem packXNN_fields (w : Word) : packXNN (classOf w) (fieldX w) (fieldNN w) = w := by
  unfold packXNN classOf fieldX fieldNN
  simp only [nibbleOf_ofNibble]
  ext k hk; simp; grind

theorem packNNN_fields (w : Word) : packNNN (classOf w) (fieldNNN w) = w := by
  unfold packNNN classOf fieldNNN
  ext k hk; simp; grind

/-! ### What the decoder answers -/

theorem gapped_eq_instr (g : Bool) (w : Word) (i j : Instr) :
    gapped g w i = .instr j ↔ g = true ∧ i = j := by
  cases g <;> simp [gapped]

theorem gapped_eq_unknown (g : Bool) (w v : Word) (i : Instr) :
    gapped g w i = .unknown v ↔ g = false ∧ w = v := by
  cases g <;> simp [gapped]

/-- The word reported as unknown is the word that was decoded (R52, R62). -/
theorem eq_of_decodeWord_unknown {g : Bool} {w v : Word} (h : decodeWord g w = .unknown v) :
    v = w := by
  simp only [decodeWord, decodeClass0, decodeClass5, decodeClass8, decodeClass9, decodeClassE,
    decodeClassF] at h
  repeat' split at h
  all_goals simp_all [gapped_eq_unknown]

end Sys2Proof
end

