-- ==== Sys2Proof/Laws/PerInstr.lean ====
section
/-! SUPPORT. Statements made per instruction: the encoding of an instruction selects its row of the
opcode map (30_encoding.md R50, R51). -/

namespace Sys2Proof.Laws

open Sys2Proof.Machine

theorem nibbleOf_zero : nibbleOf 0 = 0#4 := rfl

/-- Format `NNN` under the mask 0xF000. -/
theorem packNNN_class (c : BitVec 4) (nnn : Addr) : packNNN c nnn &&& 0xF000#16 = packNNN c 0 := by
  unfold packNNN; ext k hk; interval_cases k <;> simp <;> grind

/-- Format `XNN` under the mask 0xF000. -/
theorem packXNN_class (c : BitVec 4) (x : Reg) (nn : Byte) :
    packXNN c x nn &&& 0xF000#16 = packXNN c 0 0 := by
  unfold packXNN; ext k hk; interval_cases k <;> simp [nibbleOf_zero] <;> grind

/-- Format `X` under the mask 0xF0FF. -/
theorem packXNN_lowByte (c : BitVec 4) (x : Reg) (nn : Byte) :
    packXNN c x nn &&& 0xF0FF#16 = packXNN c 0 nn := by
  unfold packXNN; ext k hk; interval_cases k <;> simp [nibbleOf_zero] <;> grind

/-- Format `XYN` under the mask 0xF000. -/
theorem packXYN_class (c : BitVec 4) (x y : Reg) (n : BitVec 4) :
    packXYN c x y n &&& 0xF000#16 = packXYN c 0 0 0 := by
  unfold packXYN; ext k hk; interval_cases k <;> simp [nibbleOf_zero] <;> grind

/-- Format `XY` under the mask 0xF00F. -/
theorem packXYN_lowNibble (c : BitVec 4) (x y : Reg) (n : BitVec 4) :
    packXYN c x y n &&& 0xF00F#16 = packXYN c 0 0 n := by
  unfold packXYN; ext k hk; interval_cases k <;> simp [nibbleOf_zero] <;> grind

namespace EncodeSelectsRow

/-- The word of the instruction selects the row of its pattern, and that row stands in the map with
the mark `gap` exactly for a gap instruction. -/
def Statement (ins : Instr) : Prop :=
  (rowOf ins).selects true (encode ins) = true ∧ rowOf ins ∈ opcodeMap ∧ (rowOf ins).gap = ins.isGap

theorem of_mask (ins : Instr) (h : encode ins &&& (rowOf ins).mask = (rowOf ins).value)
    (hm : rowOf ins ∈ opcodeMap) (hg : (rowOf ins).gap = ins.isGap) : Statement ins :=
  ⟨by simp [Row.selects, h], hm, hg⟩

theorem cls : Statement .cls := of_mask _ (by decide) (by decide) rfl

theorem ret : Statement .ret := of_mask _ (by decide) (by decide) rfl

theorem jp (nnn : Addr) : Statement (.jp nnn) :=
  of_mask _ ((packNNN_class _ _).trans rfl) (by simp only [rowOf]; decide) rfl

theorem call (nnn : Addr) : Statement (.call nnn) :=
  of_mask _ ((packNNN_class _ _).trans rfl) (by simp only [rowOf]; decide) rfl

theorem seImm (x : Reg) (nn : Byte) : Statement (.seImm x nn) :=
  of_mask _ ((packXNN_class _ _ _).trans rfl) (by simp only [rowOf]; decide) rfl

theorem sneImm (x : Reg) (nn : Byte) : Statement (.sneImm x nn) :=
  of_mask _ ((packXNN_class _ _ _).trans rfl) (by simp only [rowOf]; decide) rfl

theorem seReg (x : Reg) (y : Reg) : Statement (.seReg x y) :=
  of_mask _ ((packXYN_lowNibble _ _ _ _).trans rfl) (by simp only [rowOf]; decide) rfl

theorem ldImm (x : Reg) (nn : Byte) : Statement (.ldImm x nn) :=
  of_mask _ ((packXNN_class _ _ _).trans rfl) (by simp only [rowOf]; decide) rfl

theorem addImm (x : Reg) (nn : Byte) : Statement (.addImm x nn) :=
  of_mask _ ((packXNN_class _ _ _).trans rfl) (by simp only [rowOf]; decide) rfl

theorem ldReg (x : Reg) (y : Reg) : Statement (.ldReg x y) :=
  of_mask _ ((packXYN_lowNibble _ _ _ _).trans rfl) (by simp only [rowOf]; decide) rfl

theorem orReg (x : Reg) (y : Reg) : Statement (.orReg x y) :=
  of_mask _ ((packXYN_lowNibble _ _ _ _).trans rfl) (by simp only [rowOf]; decide) rfl

theorem andReg (x : Reg) (y : Reg) : Statement (.andReg x y) :=
  of_mask _ ((packXYN_lowNibble _ _ _ _).trans rfl) (by simp only [rowOf]; decide) rfl

theorem xorReg (x : Reg) (y : Reg) : Statement (.xorReg x y) :=
  of_mask _ ((packXYN_lowNibble _ _ _ _).trans rfl) (by simp only [rowOf]; decide) rfl

theorem addReg (x : Reg) (y : Reg) : Statement (.addReg x y) :=
  of_mask _ ((packXYN_lowNibble _ _ _ _).trans rfl) (by simp only [rowOf]; decide) rfl

theorem subReg (x : Reg) (y : Reg) : Statement (.subReg x y) :=
  of_mask _ ((packXYN_lowNibble _ _ _ _).trans rfl) (by simp only [rowOf]; decide) rfl

theorem shr (x : Reg) (y : Reg) : Statement (.shr x y) :=
  of_mask _ ((packXYN_lowNibble _ _ _ _).trans rfl) (by simp only [rowOf]; decide) rfl

theorem subnReg (x : Reg) (y : Reg) : Statement (.subnReg x y) :=
  of_mask _ ((packXYN_lowNibble _ _ _ _).trans rfl) (by simp only [rowOf]; decide) rfl

theorem shl (x : Reg) (y : Reg) : Statement (.shl x y) :=
  of_mask _ ((packXYN_lowNibble _ _ _ _).trans rfl) (by simp only [rowOf]; decide) rfl

theorem sneReg (x : Reg) (y : Reg) : Statement (.sneReg x y) :=
  of_mask _ ((packXYN_lowNibble _ _ _ _).trans rfl) (by simp only [rowOf]; decide) rfl

theorem ldI (nnn : Addr) : Statement (.ldI nnn) :=
  of_mask _ ((packNNN_class _ _).trans rfl) (by simp only [rowOf]; decide) rfl

theorem jpV0 (nnn : Addr) : Statement (.jpV0 nnn) :=
  of_mask _ ((packNNN_class _ _).trans rfl) (by simp only [rowOf]; decide) rfl

theorem rnd (x : Reg) (nn : Byte) : Statement (.rnd x nn) :=
  of_mask _ ((packXNN_class _ _ _).trans rfl) (by simp only [rowOf]; decide) rfl

theorem drw (x : Reg) (y : Reg) (n : Height) : Statement (.drw x y n) :=
  of_mask _ ((packXYN_class _ _ _ _).trans rfl) (by simp only [rowOf]; decide) rfl

theorem skp (x : Reg) : Statement (.skp x) :=
  of_mask _ ((packXNN_lowByte _ _ _).trans rfl) (by simp only [rowOf]; decide) rfl

theorem sknp (x : Reg) : Statement (.sknp x) :=
  of_mask _ ((packXNN_lowByte _ _ _).trans rfl) (by simp only [rowOf]; decide) rfl

theorem ldVxDt (x : Reg) : Statement (.ldVxDt x) :=
  of_mask _ ((packXNN_lowByte _ _ _).trans rfl) (by simp only [rowOf]; decide) rfl

theorem ldVxK (x : Reg) : Statement (.ldVxK x) :=
  of_mask _ ((packXNN_lowByte _ _ _).trans rfl) (by simp only [rowOf]; decide) rfl

theorem ldDtVx (x : Reg) : Statement (.ldDtVx x) :=
  of_mask _ ((packXNN_lowByte _ _ _).trans rfl) (by simp only [rowOf]; decide) rfl

theorem ldStVx (x : Reg) : Statement (.ldStVx x) :=
  of_mask _ ((packXNN_lowByte _ _ _).trans rfl) (by simp only [rowOf]; decide) rfl

theorem addI (x : Reg) : Statement (.addI x) :=
  of_mask _ ((packXNN_lowByte _ _ _).trans rfl) (by simp only [rowOf]; decide) rfl

theorem ldFVx (x : Reg) : Statement (.ldFVx x) :=
  of_mask _ ((packXNN_lowByte _ _ _).trans rfl) (by simp only [rowOf]; decide) rfl

theorem ldBVx (x : Reg) : Statement (.ldBVx x) :=
  of_mask _ ((packXNN_lowByte _ _ _).trans rfl) (by simp only [rowOf]; decide) rfl

theorem ldMemVx (x : Reg) : Statement (.ldMemVx x) :=
  of_mask _ ((packXNN_lowByte _ _ _).trans rfl) (by simp only [rowOf]; decide) rfl

theorem ldVxMem (x : Reg) : Statement (.ldVxMem x) :=
  of_mask _ ((packXNN_lowByte _ _ _).trans rfl) (by simp only [rowOf]; decide) rfl

end EncodeSelectsRow

end Sys2Proof.Laws
end

