-- ==== Sys2Proof/Laws/Step.lean ====
section
/-! SUPPORT. What a cycle can do, once: the inversion of `fetch` and `cycle`, the fields of
`complete`, and the two bytes `placeWord` stores. -/

namespace Sys2Proof.Machine

/-- Fetch and decode give an instruction only to a running core with a `pc` inside memory whose word
decodes. -/
theorem fetch_eq_run (c : Config) (s : State) (ins : Instr) :
    fetch c s = .run ins ↔ s.runState = .running ∧ s.pc.toNat ≤ 4094 ∧
      decodeWord c.gapFill s.fetchWord = .instr ins := by
  unfold fetch
  cases hr : s.runState with
  | halted cause => simp
  | running =>
    by_cases hp : 4094 < s.pc.toNat
    · simp [hp]
    · simp only [hp, if_false]
      cases hd : decodeWord c.gapFill s.fetchWord <;> simp [Nat.le_of_not_lt hp]

/-- Where no instruction runs, the cycle ends in one of the three ways of R67. -/
theorem fetch_eq_ended (c : Config) (s t : State) :
    fetch c s = .ended t ↔
      (∃ cause, s.runState = .halted cause ∧ t = s.report (.stillHalted cause) false) ∨
      (s.runState = .running ∧ 4094 < s.pc.toNat ∧
        t = (s.raise (.fetchOutOfBounds s.pc)).report (.fatal (.fetchOutOfBounds s.pc)) false) ∨
      (s.runState = .running ∧ s.pc.toNat ≤ 4094 ∧
        ∃ w, decodeWord c.gapFill s.fetchWord = .unknown w ∧
          t = s.report (.unknownOpcode s.pc w) false) := by
  unfold fetch
  cases hr : s.runState with
  | halted cause => simp [eq_comm]
  | running =>
    by_cases hp : 4094 < s.pc.toNat
    · simp [hp, eq_comm]
    · simp only [hp, if_false]
      cases hd : decodeWord c.gapFill s.fetchWord <;> simp [Nat.le_of_not_lt hp, eq_comm]

/-- Everything a cycle that answers a next state can have done. -/
theorem cycle_cases (c : Config) (s t : State) (h : cycle c s = .next t) :
    fetch c s = .ended t ∨
      ∃ ins u, fetch c s = .run ins ∧ exec ins s = .next u ∧ t = complete c u := by
  unfold cycle at h
  cases hf : fetch c s with
  | ended u => rw [hf] at h; cases h; exact .inl rfl
  | run ins =>
    rw [hf] at h
    cases hx : exec ins s with
    | next u => simp only [hx] at h; cases h; exact .inr ⟨ins, u, rfl, hx, rfl⟩
    | fault r => simp [hx] at h
    | refused r => simp [hx] at h

/-- A fault of the execute step ends the cycle without a tick. -/
theorem complete_halted (c : Config) (s : State) (cause : Cause) (h : s.runState = .halted cause) :
    complete c s = s.report (.fatal cause) false := by simp [complete, h]

/-- A completed execute step is followed by the tick in mode `per_cycle`. -/
theorem complete_running_perCycle (c : Config) (s : State) (h : s.runState = .running)
    (hm : c.tickMode = .perCycle) : complete c s = s.tick.report .ok s.tickTone := by
  simp [complete, h, hm]

theorem complete_running_host (c : Config) (s : State) (h : s.runState = .running)
    (hm : c.tickMode = .host) : complete c s = s.report .ok false := by simp [complete, h, hm]

/-- The end of a cycle changes no part but the timers and the outputs. -/
theorem complete_keeps (c : Config) (s : State) :
    ∃ dt st o b, complete c s = { s with dt := dt, st := st, outcome := some o, tone := b } := by
  cases hr : s.runState with
  | halted cause => rw [complete_halted c s cause hr, ← hr]; exact ⟨s.dt, s.st, .fatal cause, false, rfl⟩
  | running =>
    cases hm : c.tickMode with
    | perCycle => rw [complete_running_perCycle c s hr hm, ← hr]; exact ⟨_, _, .ok, s.tickTone, rfl⟩
    | host => rw [complete_running_host c s hr hm, ← hr]; exact ⟨s.dt, s.st, .ok, false, rfl⟩

theorem State.fetchable_le (s : State) : s.fetchable.toNat ≤ 4094 := by
  unfold State.fetchable
  split
  · simp
  · omega

/-- The word placed is the word fetched. -/
theorem State.fetchWord_placeWord (s : State) (w : Word) (h : Memory.wf s.mem) :
    (s.placeWord w).fetchWord = w := by
  have hle := s.fetchable_le
  have hlen : s.fetchable.toNat + [highByte w, lowByte w].length ≤ 4096 := by simp; omega
  have h0 := Memory.read_writeBytes s.mem s.fetchable.toNat _ 0 h hlen (by simp)
  have h1 := Memory.read_writeBytes s.mem s.fetchable.toNat _ 1 h hlen (by simp)
  show wordOfBytes (Memory.read (Memory.writeBytes s.mem s.fetchable.toNat _) (s.fetchable.toNat + 0))
    (Memory.read (Memory.writeBytes s.mem s.fetchable.toNat _) (s.fetchable.toNat + 1)) = w
  rw [h0, h1]
  exact wordOfBytes_bytes w

/-- A run of one more step is the run from the state the step leads to. -/
theorem core_run_succ (n : Nat) (s t : State) (h : step s = .next t) :
    Sys2Proof.core.run (n + 1) s = Sys2Proof.core.run n t := by
  have gen : ∀ (m : Host.Core) (s t : m.State), m.step s = .next t → m.run (n + 1) s = m.run n t := by
    intro m s t h
    simp only [Host.Core.run, h]
  exact gen Sys2Proof.core s t h

end Sys2Proof.Machine
end

