-- ==== Sys2Proof/Tests/Slice0.lean ====
section
/-! SUPPORT. The model's own tests. Expected values are those of 95_test_vectors.md (the vector's id
stands at the test) or of the example of the rule named. The last part meets the hypotheses of each
statement that has some. -/

namespace Sys2Proof.Tests

open Sys2Proof.Machine

/-- The next state of a result. -/
def nextOf : Result → Option State
  | .next s => some s
  | .fault _ => none
  | .refused _ => none

/-- The reset state with a word at 0x200 (the vectors' start). -/
def fresh (w : Nat) : State := State.reset.withFetchWord 16 w

/-- What `f` sees after one step. -/
def after {α : Type} (s : State) (f : State → α) : Option α := (nextOf (step s)).map f

/-- `s` with bytes at an address. -/
def withBytes (s : State) (a : Nat) (bs : List Byte) : State := s.store a bs

/-- The framebuffer in which exactly the listed cells are 1. -/
def lit (cells : List Pixel) : Screen := cells.foldl Screen.toggle (Vector.replicate 32 0)

/-! ### WellFormed: each check refuses an ill-formed term (R51, D-FD-12) -/

theorem test_wellFormed_refuses_gap_alu :
    Instr.wellFormed false (.orReg 1 2) = false ∧ Instr.wellFormed false (.subnReg 1 2) = false ∧
    Instr.wellFormed false (.shl 1 2) = false ∧ Instr.wellFormed false (.rnd 1 0xFF) = false := by decide

theorem test_wellFormed_refuses_gap_control :
    Instr.wellFormed false (.sneReg 1 2) = false ∧ Instr.wellFormed false (.jpV0 0x300) = false ∧
    Instr.wellFormed false (.ldVxK 1) = false := by decide

theorem test_wellFormed_refuses_gap_memory :
    Instr.wellFormed false (.ldFVx 1) = false ∧ Instr.wellFormed false (.ldBVx 1) = false ∧
    Instr.wellFormed false (.ldMemVx 1) = false := by decide

theorem test_decode_refuses_gap_words :
    [0x8121#16, 0x8127#16, 0x812E#16, 0x9120#16, 0xB300#16, 0xC1FF#16, 0xF10A#16, 0xF129#16, 0xF133#16,
      0xF155#16].map (decodeWord false) =
    [.unknown 0x8121#16, .unknown 0x8127#16, .unknown 0x812E#16, .unknown 0x9120#16, .unknown 0xB300#16,
      .unknown 0xC1FF#16, .unknown 0xF10A#16, .unknown 0xF129#16, .unknown 0xF133#16,
      .unknown 0xF155#16] := by decide

/-! ### Decoding: a word for every constructor, written out from R50 and R51 -/

theorem test_decode_control :
    decodeWord true 0x00E0 = .instr .cls ∧ decodeWord true 0x00EE = .instr .ret ∧
    decodeWord true 0x1ABC = .instr (.jp 0xABC) ∧ decodeWord true 0x2456 = .instr (.call 0x456) ∧
    decodeWord true 0x3133 = .instr (.seImm 1 0x33) ∧ decodeWord true 0x4310 = .instr (.sneImm 3 0x10) ∧
    decodeWord true 0x5120 = .instr (.seReg 1 2) ∧ decodeWord true 0x9AB0 = .instr (.sneReg 10 11) ∧
    decodeWord true 0xBFFF = .instr (.jpV0 0xFFF) := by decide

theorem test_decode_alu :
    decodeWord true 0x65FF = .instr (.ldImm 5 0xFF) ∧ decodeWord true 0x7302 = .instr (.addImm 3 2) ∧
    decodeWord true 0x8120 = .instr (.ldReg 1 2) ∧ decodeWord true 0x8121 = .instr (.orReg 1 2) ∧
    decodeWord true 0x8122 = .instr (.andReg 1 2) ∧ decodeWord true 0x8123 = .instr (.xorReg 1 2) ∧
    decodeWord true 0x8F14 = .instr (.addReg 15 1) ∧ decodeWord true 0x81F5 = .instr (.subReg 1 15) ∧
    decodeWord true 0x8AB6 = .instr (.shr 10 11) ∧ decodeWord true 0x8127 = .instr (.subnReg 1 2) ∧
    decodeWord true 0x834E = .instr (.shl 3 4) ∧ decodeWord true 0xC10F = .instr (.rnd 1 0x0F) := by decide

theorem test_decode_memory_and_display :
    decodeWord true 0xA22A = .instr (.ldI 0x22A) ∧ decodeWord true 0xF01E = .instr (.addI 0) ∧
    decodeWord true 0xF265 = .instr (.ldVxMem 2) ∧ decodeWord true 0xF229 = .instr (.ldFVx 2) ∧
    decodeWord true 0xF033 = .instr (.ldBVx 0) ∧ decodeWord true 0xFF55 = .instr (.ldMemVx 15) ∧
    decodeWord true 0xD012 = .instr (.drw 0 1 2) := by decide

theorem test_decode_keypad_and_timers :
    decodeWord true 0xE49E = .instr (.skp 4) ∧ decodeWord true 0xE4A1 = .instr (.sknp 4) ∧
    decodeWord true 0xF50A = .instr (.ldVxK 5) ∧ decodeWord true 0xF307 = .instr (.ldVxDt 3) ∧
    decodeWord true 0xF315 = .instr (.ldDtVx 3) ∧ decodeWord true 0xF318 = .instr (.ldStVx 3) := by decide

/-- D-FD-6 to D-FD-11. -/
theorem test_decode_unknown :
    [
      0x00E1#16, 0x0123#16, 0x0FFF#16, 0x01E0#16, 0x5121#16, 0x8128#16, 0x812F#16, 0x9121#16,
      0xE000#16, 0xE19F#16, 0xF000#16, 0xF166#16].map (decodeWord true) =
    [
      .unknown 0x00E1#16, .unknown 0x0123#16, .unknown 0x0FFF#16, .unknown 0x01E0#16,
      .unknown 0x5121#16, .unknown 0x8128#16, .unknown 0x812F#16, .unknown 0x9121#16,
      .unknown 0xE000#16, .unknown 0xE19F#16, .unknown 0xF000#16, .unknown 0xF166#16] := by decide

/-- S10: the byte at `pc` is the high byte. -/
theorem test_wordOfBytes : wordOfBytes 0xA2 0x2A = 0xA22A#16 ∧ encodeBytes (.ldI 0x22A) = [0xA2, 0x2A] := by decide

theorem test_decodeTableWord :
    decodeTableWord 16 0xA22A = some (.ldI 0x22A) ∧ decodeTableWord 16 0x0000 = none := by decide

/-! ### Memory -/

/-- D-MEM-22 and back: writing what an unlisted address reads as removes the entry. -/
theorem test_memory_canonical :
    Memory.write [] 0 0xAA = [(0, 0xAA)] ∧ Memory.write [(0, 0xAA)] 0 0xF0 = [] ∧
    Memory.write [(0x300, 1)] 0x200 2 = [(0x200, 2), (0x300, 1)] := by decide

/-- R32, R33. -/
theorem test_memory_reset :
    Memory.read [] 0x4F = 0x80 ∧ Memory.read [] 0x50 = 0 ∧ Memory.read [] 0x32 = 0xF0 ∧
    Memory.read [] 4095 = 0 := by decide

/-! ### The cycle -/

/-- D-FD-2: an odd `pc` is no fault. -/
theorem test_fetch_odd_pc :
    after (withBytes (State.reset.setPc 0x201) 0x201 [0x60, 0x7F]) (fun t => (t.reg 0, t.pc, t.outcome)) =
      some (0x7F, 0x203, some .ok) := by decide

/-- D-FD-3. -/
theorem test_fetch_last_word :
    after (withBytes (State.reset.setPc 0xFFE) 0xFFE [0x61, 0x05]) (fun t => (t.reg 1, t.pc, t.outcome)) =
      some (5, 0x1000, some .ok) := by decide

/-- D-FD-4. -/
theorem test_fetch_out_of_bounds :
    after (State.reset.setPc 0xFFF) (fun t => (t.runState, t.pc, t.outcome)) =
      some (.halted (.fetchOutOfBounds 0xFFF), 0xFFF, some (.fatal (.fetchOutOfBounds 0xFFF))) := by decide

/-- D-FD-5. -/
theorem test_unknown_opcode_changes_nothing :
    after ((State.reset.setDelay 9).setSound 9) (fun t => (t.outcome, t.pc, t.dt, t.st, t.runState)) =
      some (some (.unknownOpcode 0x200 0), 0x200, 9, 9, .running) := by decide

/-- D-FLT-5 with D-CF-9: no tick in a faulting cycle. -/
theorem test_fault_does_not_tick :
    after ((fresh 0x00EE).setDelay 3) (fun t => (t.dt, t.runState, t.pc)) =
      some (3, .halted .stackUnderflow, 0x200) := by decide

/-- D-FLT-1. -/
theorem test_halted_stays :
    after (fresh 0x6A7F |>.raise .stackUnderflow) (fun t => (t.outcome, t.pc, t.reg 10)) =
      some (some (.stillHalted .stackUnderflow), 0x200, 0) := by decide

/-- D-TMR-9. -/
theorem test_tick_with_tone :
    after (((fresh 0x6000).setDelay 1).setSound 1) (fun t => (t.dt, t.st, t.tone)) = some (0, 0, true) := by decide

/-- D-TMR-12. -/
theorem test_host_tick_mode :
    (nextOf (cycle ⟨true, .host, config.font⟩ ((fresh 0xF315).setReg 3 0x10))).map (fun t => (t.dt, t.tone)) =
      some (0x10, false) := by decide

/-! ### Control flow -/

/-- D-CF-1. -/
theorem test_jp : after (fresh 0x1ABC) (·.pc) = some 0xABC := by decide

/-- D-CF-6. -/
theorem test_call :
    after { fresh 0x2300 with sp := 15 } (fun t => (t.stack[15], t.sp, t.pc)) = some (0x202, 16, 0x300) := by decide

/-- D-CF-7. -/
theorem test_call_overflow :
    after { fresh 0x2300 with sp := 16 } (fun t => (t.sp, t.pc, t.runState)) =
      some (16, 0x200, .halted .stackOverflow) := by decide

/-- D-CF-8: the entry stays. -/
theorem test_ret :
    after { withBytes (State.reset.setPc 0x20C) 0x20C [0x00, 0xEE] with
        sp := 1, stack := State.reset.stack.set 0 0x206 } (fun t => (t.sp, t.pc, t.stack[0])) =
      some (0, 0x206, 0x206) := by decide

/-- D-CF-11, D-CF-25. -/
theorem test_seImm :
    after ((fresh 0x3133).setReg 1 0x33) (·.pc) = some 0x204 ∧
    after ((fresh 0x3F33).setReg 15 0x33) (fun t => (t.pc, t.reg 15)) = some (0x204, 0x33) := by decide

/-- D-CF-12. -/
theorem test_seImm_no_skip : after ((fresh 0x3133).setReg 1 0x32) (·.pc) = some 0x202 := by decide

/-- D-CF-13. -/
theorem test_sneImm_no_skip : after ((fresh 0x4133).setReg 1 0x33) (·.pc) = some 0x202 := by decide

/-- D-CF-14. -/
theorem test_sneImm : after ((fresh 0x4133).setReg 1 0x32) (·.pc) = some 0x204 := by decide

/-- D-CF-15. -/
theorem test_seReg : after (((fresh 0x5120).setReg 1 7).setReg 2 7) (·.pc) = some 0x204 := by decide

/-- D-CF-16. -/
theorem test_seReg_no_skip : after (((fresh 0x5120).setReg 1 7).setReg 2 8) (·.pc) = some 0x202 := by decide

/-- D-CF-18. -/
theorem test_sneReg : after (((fresh 0x9120).setReg 1 7).setReg 2 8) (·.pc) = some 0x204 := by decide

/-- D-CF-20. -/
theorem test_sneReg_same : after ((fresh 0x9440).setReg 4 9) (·.pc) = some 0x202 := by decide

/-- D-CF-23: no wrap. -/
theorem test_jpV0 : after ((fresh 0xBFFF).setReg 0 0xFF) (·.pc) = some 0x10FE := by decide

/-- D-CF-24: the offset is `V0`. -/
theorem test_jpV0_register : after ((fresh 0xB300).setReg 3 0x10) (·.pc) = some 0x300 := by decide

/-! ### Register load and ALU -/

/-- D-ALU-1. -/
theorem test_ldImm : after ((fresh 0x65FF).setReg 5 0x12) (fun t => (t.reg 5, t.pc)) = some (0xFF, 0x202) := by decide

/-- S2. -/
theorem test_addImm :
    after (((fresh 0x7302).setReg 3 0xFF).setReg 15 0x55) (fun t => (t.reg 3, t.reg 15, t.pc)) =
      some (0x01, 0x55, 0x202) := by decide

/-- D-ALU-4. -/
theorem test_addImm_vf : after ((fresh 0x7F02).setReg 15 0xFF) (·.reg 15) = some 0x01 := by decide

/-- D-ALU-5. -/
theorem test_ldReg :
    after ((fresh 0x8120).setReg 2 0x5A) (fun t => (t.reg 1, t.reg 2)) = some (0x5A, 0x5A) := by decide

/-- D-ALU-6. -/
theorem test_orReg :
    after ((((fresh 0x8121).setReg 1 0xF0).setReg 2 0x3C).setReg 15 7) (fun t => (t.reg 1, t.reg 15)) =
      some (0xFC, 7) := by decide

/-- D-ALU-7. -/
theorem test_andReg :
    after ((((fresh 0x8122).setReg 1 0xF0).setReg 2 0x3C).setReg 15 7) (fun t => (t.reg 1, t.reg 15)) =
      some (0x30, 7) := by decide

/-- D-ALU-8. -/
theorem test_xorReg :
    after ((((fresh 0x8123).setReg 1 0xF0).setReg 2 0x3C).setReg 15 7) (fun t => (t.reg 1, t.reg 15)) =
      some (0xCC, 7) := by decide

/-- S3. -/
theorem test_addReg :
    after (((fresh 0x8124).setReg 1 0xFF).setReg 2 0x01) (fun t => (t.reg 1, t.reg 15)) = some (0, 1) := by decide

/-- D-ALU-9: the carry is written over the sum. -/
theorem test_addReg_vf : after (((fresh 0x8F14).setReg 15 0xFF).setReg 1 1) (·.reg 15) = some 1 := by decide

/-- D-ALU-20: the old `VF` is subtracted. -/
theorem test_subReg :
    after (((fresh 0x81F5).setReg 1 5).setReg 15 6) (fun t => (t.reg 1, t.reg 15)) = some (0xFF, 0) := by decide

/-- D-ALU-17: the difference is written over the flag. -/
theorem test_subReg_vf : after (((fresh 0x8F15).setReg 15 5).setReg 1 3) (·.reg 15) = some 2 := by decide

/-- D-ALU-22. -/
theorem test_shr :
    after (((fresh 0x8346).setReg 3 0x05).setReg 4 0xAA) (fun t => (t.reg 3, t.reg 15, t.reg 4)) =
      some (0x02, 1, 0xAA) := by decide

/-- D-ALU-26. -/
theorem test_shr_vf : after ((fresh 0x8F06).setReg 15 0x05) (·.reg 15) = some 0x02 := by decide

/-- D-ALU-28. -/
theorem test_subnReg :
    after (((fresh 0x8127).setReg 1 3).setReg 2 1) (fun t => (t.reg 1, t.reg 15)) = some (0xFE, 0) := by decide

/-- D-ALU-30. -/
theorem test_subnReg_vf : after (((fresh 0x8F27).setReg 15 1).setReg 2 3) (·.reg 15) = some 2 := by decide

/-- D-ALU-31. -/
theorem test_shl :
    after (((fresh 0x834E).setReg 3 0x81).setReg 4 0xAA) (fun t => (t.reg 3, t.reg 15, t.reg 4)) =
      some (0x02, 1, 0xAA) := by decide

/-- D-ALU-33. -/
theorem test_shl_vf : after ((fresh 0x8F0E).setReg 15 0x81) (·.reg 15) = some 0x02 := by decide

/-- D-ALU-34, with the vector's `rand8`. -/
theorem test_rnd : (State.reset.random 1 0x0F 0xB7).reg 1 = 0x07 := by decide

/-- D-ALU-35: with `NN` 0 the result does not depend on the free value. -/
theorem test_rnd_masked (rand : Byte) : ((State.reset.setReg 1 9).random 1 0 rand).reg 1 = 0 := by
  show ((State.reset.setReg 1 9).setReg 1 (rand &&& 0)).reg 1 = 0
  simp

/-! ### Index and memory -/

/-- D-MEM-2. -/
theorem test_ldI : after (fresh 0xAFFF) (·.i) = some 0xFFF := by decide

/-- D-MEM-3, D-MEM-4. -/
theorem test_addI :
    after ((((fresh 0xF01E).setIndex 0xFFF).setReg 0 1).setReg 15 7) (fun t => (t.i, t.reg 15)) = some (0, 7) ∧
    after (((fresh 0xF01E).setIndex 0xFFF).setReg 0 0xFF) (·.i) = some 0x0FE := by decide

/-- D-MEM-6. -/
theorem test_ldVxMem :
    after (fresh 0xFF65) (fun t => (t.v.toList, t.i)) =
      some ([0xF0, 0x90, 0x90, 0x90, 0xF0, 0x20, 0x60, 0x20, 0x20, 0x70, 0xF0, 0x10, 0xF0, 0x80, 0xF0, 0xF0],
        0) := by decide

/-- D-MEM-8. -/
theorem test_ldVxMem_fault :
    after ((fresh 0xF265).setIndex 0xFFE) (fun t => (t.runState, t.pc, t.v.toList)) =
      some (.halted (.memoryOutOfBounds 4096), 0x200, List.replicate 16 0) := by decide

/-- D-MEM-11, D-MEM-14. -/
theorem test_ldFVx :
    after ((fresh 0xF229).setReg 2 0x0A) (·.i) = some 0x032 ∧
    after ((fresh 0xF229).setReg 2 0xFF) (·.i) = some 0x4FB := by decide

/-- D-MEM-17. -/
theorem test_ldBVx :
    after (((fresh 0xF033).setReg 0 255).setIndex 0xFFD)
      (fun t => (t.byteAt 0xFFD, t.byteAt 0xFFE, t.byteAt 0xFFF, t.i)) = some (2, 5, 5, 0xFFD) := by decide

/-- D-MEM-18. -/
theorem test_ldBVx_fault :
    after (((fresh 0xF033).setReg 0 255).setIndex 0xFFE) (fun t => (t.runState, t.byteAt 0xFFE)) =
      some (.halted (.memoryOutOfBounds 4096), 0) := by decide

/-- D-MEM-19. -/
theorem test_ldMemVx :
    after ((((fresh 0xF155).setReg 0 0x11).setReg 1 0x22).setIndex 0x400)
      (fun t => (t.byteAt 0x400, t.byteAt 0x401, t.byteAt 0x402, t.i)) = some (0x11, 0x22, 0, 0x400) := by decide

/-- D-MEM-21: the stored word is the next one fetched. -/
theorem test_ldMemVx_code :
    after ((((fresh 0xF155).setReg 0 0x12).setReg 1 0).setIndex 0x202) (fun t => (t.pc, t.fetchWord)) =
      some (0x202, 0x1200) := by decide

/-! ### Display -/

/-- S5. -/
theorem test_cls :
    after { fresh 0x00E0 with fb := lit [(0, 0), (40, 15), (63, 31)] } (fun t => (t.fb, t.redraw, t.pc)) =
      some (lit [], true, 0x202) := by decide

/-- P4: both axes wrap; cells 5, 62, 2046, 2047. -/
theorem test_drw :
    after (((withBytes (fresh 0xD012) 0x20C [0xC0, 0x81]).setIndex 0x20C).setReg 0 62 |>.setReg 1 31)
      (fun t => (t.fb, t.reg 15, t.redraw, t.i)) =
      some (lit [(62, 31), (63, 31), (62, 0), (5, 0)], 0, true, 0x20C) := by decide

/-- D-DSP-11: one of two bits collides. -/
theorem test_drw_collision :
    after { (withBytes (fresh 0xD011) 0x300 [0xC0]).setIndex 0x300 with fb := lit [(0, 0)] }
      (fun t => (t.fb, t.reg 15)) = some (lit [(1, 0)], 1) := by decide

/-! ### Keypad and timers -/

/-- D-KEY-5. -/
theorem test_skp : after (((fresh 0xE49E).setReg 4 15).setKey 15 true) (·.pc) = some 0x204 := by decide

/-- D-KEY-6. -/
theorem test_skp_fault :
    after ((fresh 0xE49E).setReg 4 16) (fun t => (t.runState, t.pc)) =
      some (.halted (.keyIndexOutOfRange 16), 0x200) := by decide

/-- D-KEY-3. -/
theorem test_sknp : after (((fresh 0xE4A1).setReg 4 7).setKey 7 true) (·.pc) = some 0x202 := by decide

/-- D-KEY-4. -/
theorem test_sknp_skip : after ((fresh 0xE4A1).setReg 4 7) (·.pc) = some 0x204 := by decide

/-- D-KEY-8. -/
theorem test_ldVxK_waits :
    after ((fresh 0xF50A).setDelay 5) (fun t => (t.pc, t.reg 5, t.outcome, t.dt)) =
      some (0x200, 0, some .ok, 4) := by decide

/-- D-KEY-9. -/
theorem test_ldVxK :
    after (((fresh 0xF50A).setKey 9 true).setKey 3 true) (fun t => (t.reg 5, t.pc)) = some (3, 0x202) := by decide

/-- D-TMR-1. -/
theorem test_ldVxDt : after ((fresh 0xF307).setDelay 0x20) (fun t => (t.reg 3, t.dt)) = some (0x20, 0x1F) := by decide

/-- D-TMR-3. -/
theorem test_ldDtVx : after ((fresh 0xF315).setReg 3 0x10) (fun t => (t.dt, t.tone)) = some (0x0F, false) := by decide

/-- D-TMR-6. -/
theorem test_ldStVx : after ((fresh 0xF318).setReg 3 1) (fun t => (t.st, t.tone)) = some (0, true) := by decide

/-- D-TMR-8. -/
theorem test_ldStVx_cancels :
    after ((fresh 0xF318).setSound 5) (fun t => (t.st, t.tone)) = some (0, false) := by decide

/-! ### The host -/

/-- P8: report, skip, and the skip that is not permitted before a report. -/
theorem test_hostSkip :
    (runEvents config [.cycle, .host .hostSkip] State.reset).map (fun t => (t.pc, t.outcome)) =
      some (0x202, some (.unknownOpcode 0x200 0)) ∧
    runEvents config [.host .hostSkip] State.reset = none := by decide

/-- R130, D21: a second `HostSkip` is not right after the report, whatever the host did between. -/
theorem test_hostSkip_once :
    runEvents config [.cycle, .host .hostSkip, .host (.setKey 3 true), .host .hostSkip] State.reset = none ∧
    (runEvents config [.cycle, .host (.setKey 3 true), .host .hostSkip, .cycle, .host .hostSkip]
      State.reset).map (·.pc) = some 0x204 := by decide

/-- R132: the tone is `TimerTick`'s reply. -/
theorem test_timerTick_reply :
    (HostOp.act ⟨true, .host, config.font⟩ (State.reset.setSound 1) .timerTick).1 = .tone true ∧
    (HostOp.act ⟨true, .host, config.font⟩ (State.reset.setSound 2) .timerTick).1 = .tone false := by decide

/-- P9: `Reset` after a fatal fault. -/
theorem test_reset_after_fault :
    runEvents config [.host (.loadRom [0x00, 0xEE]), .cycle, .host .reset] State.reset = some State.reset := by decide

/-- R5, R33: any 80 bytes may be the font. -/
theorem test_reset_other_font :
    (runEvents ⟨true, .perCycle, Vector.replicate 80 0xAA⟩ [.host .reset] State.reset).map
      (fun t => (t.byteAt 0, t.byteAt 79, t.byteAt 80, t.pc)) = some (0xAA, 0xAA, 0, 0x200) := by decide

/-- R133: `LoadROM` only before the first cycle and once. -/
theorem test_loadRom_protocol :
    runEvents config [.cycle, .host (.loadRom [0x12])] State.reset = none ∧
    runEvents config [.host (.loadRom [0x12]), .host (.loadRom [0x12])] State.reset = none ∧
    (runEvents config [.host (.loadRom [0x12, 0x34])] State.reset).map (·.fetchWord) = some 0x1234 := by decide

/-- D-FLT-7. -/
theorem test_loadRom_too_large :
    State.reset.loadRom (List.replicate 3585 0) = (.romTooLarge 3585, State.reset) := by
  unfold State.loadRom
  rw [if_pos (by rw [List.length_replicate]; decide), List.length_replicate]

/-- D-FLT-2, D-KEY-12. -/
theorem test_host_while_halted :
    (runEvents config [.host (.setKey 3 true), .host .clearRedraw]
      { State.reset.raise .stackOverflow with redraw := true }).map
        (fun t => (t.pressed 3, t.redraw, t.runState)) =
      some (true, false, .halted .stackOverflow) := by decide

/-- S12: cell `x + 64 * y`. -/
theorem test_observe_framebuffer :
    ({ State.reset with fb := lit [(0, 1), (63, 31)] } : State).cell 64 = true ∧
    ({ State.reset with fb := lit [(0, 1), (63, 31)] } : State).cell 2047 = true ∧
    ({ State.reset with fb := lit [(0, 1), (63, 31)] } : State).cell 63 = false := by decide

/-! ### States and operands that meet the hypotheses of the statements, clause by clause, at the ends
of each range -/

/-- A running state whose stack holds `n` entries. -/
def deep (n : Fin 17) : State := { State.reset with sp := n }

/-- A state as after a report of the word at 0x200. -/
def reported : State := State.reset.report (.unknownOpcode 0x200 0) false

theorem test_hyps_DecodeOfEncode :
    Instr.wellFormed false (.drw 15 15 15) = true ∧ Instr.wellFormed true (.ldMemVx 15) = true := by decide

theorem test_hyps_EncodeOfDecode : decode true [0x8A, 0xB6, 0x12] = .ok (.shr 10 11, [0x12]) := rfl

theorem test_hyps_DecodeFollowsOpcodeMap :
    decodeWord true 0x8AB1 = .instr (.orReg 10 11) ∧ (⟨0xF00F, 0x8001, true⟩ : Row) ∈ opcodeMap ∧
    Row.selects true 0x8AB1 ⟨0xF00F, 0x8001, true⟩ = true := by decide

theorem test_hyps_StepRunsDecodedInstruction :
    (fresh 0x607F).runState = .running ∧ (fresh 0x607F).pc.toNat ≤ 4094 ∧
    decode gapFillTaken [(fresh 0x607F).byteAt 0x200, (fresh 0x607F).byteAt 0x201] = .ok (.ldImm 0 0x7F, []) ∧
    (nextOf (exec (.ldImm 0 0x7F) (fresh 0x607F))).map (·.runState) = some .running ∧
    decode gapFillTaken [(fresh 0x00EE).byteAt 0x200, (fresh 0x00EE).byteAt 0x201] = .ok (.ret, []) ∧
    (nextOf (exec .ret (fresh 0x00EE))).map (·.runState) = some (.halted .stackUnderflow) :=
  ⟨rfl, by decide, rfl, by decide, rfl, by decide⟩

theorem test_hyps_FetchReadsBigEndianOrFaults :
    State.reset.runState = .running ∧ 4094 < (State.reset.setPc 4095).pc.toNat ∧
    (State.reset.setPc 4094).pc.toNat ≤ 4094 ∧
    ∃ t, step (State.reset.setPc 4094) = .next t := ⟨rfl, by decide, by decide, _, rfl⟩

theorem test_hyps_UnknownOpcodeReportsForEver :
    State.reset.runState = .running ∧ State.reset.pc.toNat ≤ 4094 ∧
    decodeWord gapFillTaken State.reset.fetchWord = .unknown 0x0000 := by decide

theorem test_hyps_HaltedCoreStaysHalted :
    (State.reset.raise .stackUnderflow).runState = .halted .stackUnderflow ∧
    Event.host .reset ∉ [Event.cycle, Event.host (.setKey 3 true)] := by decide

theorem test_hyps_FatalFaultIsPrecise :
    (fresh 0x00EE).runState = .running ∧ ∃ t, step (fresh 0x00EE) = .next t ∧
      t.runState = .halted .stackUnderflow := ⟨by decide, _, rfl, by decide⟩

/-- Both sides of every condition: sp 0 and 1, 15 and 16; V[X] 15 and 16; I + N 4096 and 4097. -/
theorem test_hyps_EachInstructionFaultsExactlyWhen :
    (nextOf (exec .ret (deep 0))).map (·.runState) = some (.halted .stackUnderflow) ∧
    (nextOf (exec .ret (deep 1))).map (·.runState) = some .running ∧
    (nextOf (exec (.call 0x300) (deep 15))).map (·.runState) = some .running ∧
    (nextOf (exec (.call 0x300) (deep 16))).map (·.runState) = some (.halted .stackOverflow) ∧
    (nextOf (exec (.skp 4) (State.reset.setReg 4 15))).map (·.runState) = some .running ∧
    (nextOf (exec (.sknp 4) (State.reset.setReg 4 16))).map (·.runState) =
      some (.halted (.keyIndexOutOfRange 16)) ∧
    (nextOf (exec (.drw 0 1 0) (State.reset.setIndex 0xFFF))).map (·.runState) = some .running ∧
    (nextOf (exec (.drw 0 1 1) (State.reset.setIndex 0xFFF))).map (·.runState) = some .running ∧
    (nextOf (exec (.drw 0 1 2) (State.reset.setIndex 0xFFF))).map (·.runState) =
      some (.halted (.memoryOutOfBounds 4096)) ∧
    (nextOf (exec (.ldVxMem 15) (State.reset.setIndex 0xFF0))).map (·.runState) = some .running ∧
    (nextOf (exec (.ldMemVx 15) (State.reset.setIndex 0xFF1))).map (·.runState) =
      some (.halted (.memoryOutOfBounds 4096)) ∧
    (nextOf (exec (.ldBVx 0) (State.reset.setIndex 0xFFD))).map (·.runState) = some .running ∧
    (nextOf (exec (.ldBVx 0) (State.reset.setIndex 0xFFE))).map (·.runState) =
      some (.halted (.memoryOutOfBounds 4096)) := by decide

theorem test_hyps_OutcomeFollowsPriority :
    (∃ t, step (State.reset.raise .stackOverflow) = .next t) ∧
    (State.reset.raise .stackOverflow).runState = .halted .stackOverflow ∧
    (∃ t, step (State.reset.setPc 4095) = .next t) ∧ 4094 < (State.reset.setPc 4095).pc.toNat ∧
    (∃ t, step State.reset = .next t) ∧
    decodeWord gapFillTaken State.reset.fetchWord = .unknown 0x0000 ∧
    (∃ t, step (fresh 0x6A7F) = .next t) ∧ (fresh 0x6A7F).runState = .running ∧
    decodeWord gapFillTaken (fresh 0x6A7F).fetchWord = .instr (.ldImm 10 0x7F) :=
  ⟨⟨_, rfl⟩, rfl, ⟨_, rfl⟩, by decide, ⟨_, rfl⟩, by decide, ⟨_, rfl⟩, by decide, by decide⟩

theorem test_hyps_TimersTickOncePerOkCycle :
    (∀ w ∈ [0xF315, 0xF318, 0x6000], (fresh w).runState = .running ∧ (fresh w).pc.toNat ≤ 4094) ∧
    (∀ w ∈ [0xF315, 0xF318, 0x6000], after (fresh w) (·.outcome) = some (some .ok)) ∧
    decodeWord gapFillTaken (fresh 0xF315).fetchWord = .instr (.ldDtVx 3) ∧
    decodeWord gapFillTaken (fresh 0xF318).fetchWord = .instr (.ldStVx 3) ∧
    decodeWord gapFillTaken (fresh 0x6000).fetchWord = .instr (.ldImm 0 0) := by decide

theorem test_hyps_SelfJumpSpinsWhileTimersRun :
    (fresh 0x1200).runState = .running ∧ (fresh 0x1200).pc.toNat ≤ 4094 ∧
    (fresh 0x1200).pc.toNat = (0x200 : Addr).toNat ∧
    decodeWord gapFillTaken (fresh 0x1200).fetchWord = .instr (.jp 0x200) := by decide

theorem test_hyps_ProgramCounterTable :
    (nextOf (exec .ret (deep 0))).map (·.runState) = some (.halted .stackUnderflow) ∧
    (nextOf (exec .ret (deep 16))).map (·.runState) = some .running ∧ (deep 16).sp.val = (15 : Fin 16).val + 1 ∧
    (nextOf (exec (.call 0xFFF) (deep 15))).map (·.runState) = some .running ∧
    (nextOf (exec (.skp 4) (State.reset.setReg 4 15))).map (·.runState) = some .running ∧
    ((State.reset.setReg 4 15).reg 4).toNat = (15 : Key).val ∧
    after State.reset (·.outcome) = some (some (.unknownOpcode 0x200 0)) ∧
    after (State.reset.setPc 4095) (·.outcome) = some (some (.fatal (.fetchOutOfBounds 4095))) := by decide

theorem test_hyps_CoreWritesOnlyItsOwnState :
    ∃ t, step { fresh 0x00E0 with redraw := true } = .next t ∧
      ({ fresh 0x00E0 with redraw := true } : State).redraw = true := ⟨_, rfl, rfl⟩

/-- The first and the last byte of both stores. -/
theorem test_hyps_OnlyStoresChangeMemory :
    after (((fresh 0xF033).setReg 0 254).setIndex 0x300) (fun t => (t.byteAt 0x300, t.byteAt 0x302)) =
      some (2, 4) ∧ (fresh 0xF033).byteAt 0x300 = 0 ∧ (fresh 0xF033).byteAt 0x302 = 0 ∧
    after ((((fresh 0xF155).setReg 0 1).setReg 1 2).setIndex 0x400)
      (fun t => (t.byteAt 0x400, t.byteAt 0x401)) = some (1, 2) ∧
    (fresh 0xF155).byteAt 0x400 = 0 ∧ (fresh 0xF155).byteAt 0x401 = 0 := by decide

theorem test_hyps_NoStoreWithoutGapFill :
    (⟨false, .host, config.font⟩ : Config).gapFill = false ∧
    (nextOf (cycle ⟨false, .host, config.font⟩ (fresh 0xF055))).map (·.outcome) =
      some (some (.unknownOpcode 0x200 0xF055)) := by decide

theorem test_hyps_OnlyDisplayInstructionsChangeScreen :
    after { fresh 0x00E0 with fb := lit [(0, 0)] } (fun t => (t.fb, t.redraw)) = some (lit [], true) ∧
    lit [] ≠ lit [(0, 0)] ∧ (fresh 0x00E0).redraw = false := by decide

theorem test_hyps_RegistersChangeOnlyByTheirWriters :
    (nextOf (exec (.addReg 1 2) (State.reset.setReg 15 7))).map (·.reg 15) = some 0 ∧
    (State.reset.setReg 15 7).reg 15 ≠ 0 := by decide

theorem test_hyps_SpecialStateChangesOnlyByItsWriters :
    (nextOf (exec (.call 0x300) State.reset)).map (fun t => (t.stack[0], t.sp)) = some (0x202, 1) ∧
    (nextOf (exec (.ldI 0x22A) State.reset)).map (·.i) = some 0x22A ∧
    (nextOf (exec (.ldDtVx 3) (State.reset.setReg 3 1))).map (·.dt) = some 1 ∧
    (nextOf (exec (.ldStVx 3) (State.reset.setReg 3 1))).map (·.st) = some 1 ∧
    (nextOf (exec (.rnd 3 1) State.reset)).map (·.draws) = some 1 := by decide

/-- A running state with the largest `pc` and the largest stack entry the invariant of the core
admits; and a halted one that shows the condition of its fault. -/
theorem test_hyps_StepKeepsCoreInvariant :
    ({ State.reset.setPc 0x10FE with stack := Vector.replicate 16 4096 } : State).CoreInv config ∧
    (∃ t, step { State.reset.setPc 0x10FE with stack := Vector.replicate 16 4096 } = .next t) ∧
    (((State.reset.setIndex 0xFF1).raise outOfMemory).report (.fatal outOfMemory) false).CoreInv config ∧
    ∃ t, step (((State.reset.setIndex 0xFF1).raise outOfMemory).report (.fatal outOfMemory) false) =
      .next t := by
  refine ⟨⟨by decide, by decide, by decide, fun c h => (nomatch h), rfl, by decide⟩, ⟨_, rfl⟩,
    ⟨by decide, by decide, by decide, fun c h => ?_, rfl, by decide⟩, _, rfl⟩
  cases h
  exact ⟨rfl, by decide⟩

theorem reset_stackBound : ∀ k : Fin 16, State.reset.stack[k].toNat ≤ 4096 := by decide

/-- The state after a report has the invariant, at the last address a report can name too. -/
theorem reported_inv (p : Word) (h : p.toNat ≤ 4094) :
    ((State.reset.setPc p).report (.unknownOpcode p 0) false).Inv config :=
  ⟨⟨(by decide : Memory.wf []), reset_stackBound,
    h.trans (by decide), fun c h => (nomatch h), ⟨rfl, by decide⟩, fun h => (nomatch h)⟩, fun q w e => by cases e; exact ⟨h, .inl rfl⟩⟩

/-- A cycle, and each host operation the interface has. -/
theorem test_hyps_EveryEventKeepsSystemInvariant :
    reported.Inv config ∧ (∃ t, Event.cycle.next config reported = some t) ∧
    (∃ t, (Event.host .hostSkip).next config reported = some t) ∧
    (∃ t, (Event.host .reset).next config reported = some t) ∧
    (∃ t, (Event.host (.setKey 15 true)).next config reported = some t) ∧
    (∃ t, (Event.host .clearRedraw).next config reported = some t) ∧
    ((State.reset.setPc 4094).report (.unknownOpcode 4094 0) false).Inv config ∧
    (∃ t, (Event.host .hostSkip).next config
      ((State.reset.setPc 4094).report (.unknownOpcode 4094 0) false) = some t) ∧
    State.reset.Inv ⟨false, .host, config.font⟩ ∧
    (∃ t, (Event.host (.loadRom [0x12])).next config State.reset = some t) ∧
    ∃ t, (Event.host .timerTick).next ⟨false, .host, config.font⟩ State.reset = some t :=
  ⟨reported_inv 0x200 (by decide), ⟨_, rfl⟩, ⟨_, rfl⟩, ⟨_, rfl⟩, ⟨_, rfl⟩, ⟨_, rfl⟩,
    reported_inv 4094 (by decide), ⟨_, rfl⟩,
    ⟨⟨by decide, by decide, by decide, fun c h => (nomatch h), rfl, by decide⟩, fun p w e => (nomatch e)⟩,
    ⟨_, rfl⟩, _, rfl⟩

theorem test_hyps_ReturnPopsOrUnderflows :
    (deep 1).sp.val = (0 : Fin 16).val + 1 ∧ (deep 16).sp.val = (15 : Fin 16).val + 1 ∧
    (deep 0).sp.val = 0 := by decide

theorem test_hyps_CallPushesOrOverflows :
    (deep 0).sp.val = (0 : Fin 16).val ∧ (deep 15).sp.val = (15 : Fin 16).val ∧ (0 : Fin 16) ≠ 15 ∧
    (deep 16).sp.val = 16 := by decide

theorem test_hyps_CallThenReturnComesBack : (deep 15).sp.val < 16 := by decide

theorem test_hyps_CallsNestSixteenDeep :
    (deep 1).sp.val + (List.replicate 15 (0x200 : Addr)).length ≤ 16 ∧ (0 : Fin 16).val < (deep 1).sp.val ∧
    (deep 16).sp.val = 16 := by decide

/-- `X` other than 15, for the three statements about arithmetic with a flag. -/
theorem test_hyps_AluWithFlag : (0 : Reg) ≠ 15 ∧ (14 : Reg) ≠ 15 := by decide

theorem test_hyps_RandomByteIsMasked : (0x0F : Byte).getLsbD 4 = false := by decide

/-- The largest `I` that fits and the smallest that does not, for both block transfers. -/
theorem test_hyps_LoadRegisterBlock :
    (State.reset.setIndex 0xFF0).i.toNat + (15 : Reg).val ≤ 4095 ∧ (15 : Reg) ≤ 15 ∧ (0 : Reg) ≤ 15 ∧
    4095 < (State.reset.setIndex 0xFF1).i.toNat + (15 : Reg).val := by decide

theorem test_hyps_StoreRegisterBlock :
    (State.reset.setIndex 0xFF0).i.toNat + (15 : Reg).val ≤ 4095 ∧
    Memory.wf (State.reset.setIndex 0xFF0).mem ∧ (15 : Reg) ≤ 15 ∧
    0xFEF < (State.reset.setIndex 0xFF0).ea 0 ∧
    (State.reset.setIndex 0xFF0).ea 0 + blockLength 15 ≤ 4096 ∧
    4095 < (State.reset.setIndex 0xFF1).i.toNat + (15 : Reg).val := by decide

theorem test_hyps_StoreDecimalDigits :
    (State.reset.setIndex 0xFFD).i.toNat + 2 ≤ 4095 ∧ Memory.wf (State.reset.setIndex 0xFFD).mem ∧
    0xFFC < (State.reset.setIndex 0xFFD).ea 0 ∧ (State.reset.setIndex 0xFFD).ea 0 + 3 ≤ 4096 ∧
    4095 < (State.reset.setIndex 0xFFE).i.toNat + 2 := by decide

theorem test_hyps_StoreThenLoadBlockRestores :
    Memory.wf (State.reset.setIndex 0xFF0).mem ∧
    (State.reset.setIndex 0xFF0).i.toNat + (15 : Reg).val ≤ 4095 := by decide

theorem test_hyps_StoredBytesAreFetched :
    Memory.wf (State.reset.setIndex 0xFF0).mem ∧
    (State.reset.setIndex 0xFF0).i.toNat + (15 : Reg).val ≤ 4095 ∧ (14 : Reg) < 15 ∧ (0 : Reg) < 15 := by decide

/-- A sprite of one byte at 4095, its leftmost bit on cell 0, which is 1; a sprite of two bytes there
does not fit; cell 1 is not covered; a sprite of no rows covers nothing. -/
theorem test_hyps_DrawIsOneXorOfTheSprite :
    (withBytes (State.reset.setIndex 0xFFF) 0xFFF [0x80]).i.toNat + (1 : Height).val ≤ 4096 ∧
    SpriteCovers { withBytes (State.reset.setIndex 0xFFF) 0xFFF [0x80] with fb := lit [(0, 0)] } 0 1 1 0 ∧
    State.cell { withBytes (State.reset.setIndex 0xFFF) 0xFFF [0x80] with fb := lit [(0, 0)] } 0 = true ∧
    ¬ (∃ c, SpriteCovers State.reset 0 1 0 c ∧ State.reset.cell c = true) ∧
    ¬ SpriteCovers State.reset 0 1 0 2047 ∧
    4096 < (State.reset.setIndex 0xFFF).i.toNat + (2 : Height).val := by
  refine ⟨by decide, ⟨0, by decide, 0, by decide, by decide, by decide⟩, by decide, ?_, ?_, by decide⟩
  · rintro ⟨c, ⟨row, h, -⟩, -⟩
    exact absurd h (Nat.not_lt_zero row)
  · rintro ⟨row, h, -⟩
    exact absurd h (Nat.not_lt_zero row)

theorem test_hyps_DrawingTwiceRestoresTheScreen :
    (0 : Reg) ≠ 15 ∧ (1 : Reg) ≠ 15 ∧ State.reset.i.toNat + (5 : Height).val ≤ 4096 ∧
    (∀ c, State.reset.cell c = false) ∧ ∃ c, SpriteCovers State.reset 0 1 5 c := by
  refine ⟨by decide, by decide, by decide, fun c => ?_, 0, 0, by decide, 0, by decide, by decide, by decide⟩
  simp [State.cell, Screen.lit, State.reset]

theorem test_hyps_KeySkips :
    ((State.reset.setReg 4 0).reg 4).toNat = (0 : Key).val ∧
    ((State.reset.setReg 4 15).reg 4).toNat = (15 : Key).val ∧
    15 < ((State.reset.setReg 4 16).reg 4).toNat := by decide

theorem test_hyps_WaitForKey :
    ((State.reset.setKey 9 true).setKey 3 true).pressed 3 = true ∧
    (∀ j, j < 3 → ((State.reset.setKey 9 true).setKey 3 true).pressed j = false) ∧
    ∀ k, State.reset.pressed k = false := by decide

theorem test_hyps_LoadRomCopiesOrRejects :
    3584 < (List.replicate 3585 (0 : Byte)).length ∧ (List.replicate 3584 (0 : Byte)).length ≤ 3584 ∧
    Memory.wf State.reset.mem := by
  refine ⟨?_, ?_, by decide⟩
  · rw [List.length_replicate]; decide
  · rw [List.length_replicate]

theorem test_hyps_SetKeyAndClearRedraw : (0 : Key) ≠ 15 := by decide

theorem test_hyps_HostProtocol :
    reported.outcome = some (.unknownOpcode 0x200 0) ∧ reported.pc = 0x200 ∧
    (∀ w, reported.hostSkip.outcome ≠ some (.unknownOpcode reported.hostSkip.pc w)) ∧
    (∀ w, State.reset.outcome ≠ some (.unknownOpcode State.reset.pc w)) ∧ reported.outcome ≠ none ∧
    ({ State.reset with romLoaded := true } : State).romLoaded = true ∧ State.reset.outcome = none ∧
    State.reset.romLoaded = false ∧ config.tickMode = .perCycle ∧
    (⟨true, .host, config.font⟩ : Config).tickMode = .host := by
  refine ⟨rfl, rfl, fun w h => ?_, fun w h => (nomatch h), by decide, rfl, rfl, rfl, rfl, rfl⟩
  exact absurd (CycleOutcome.unknownOpcode.inj (Option.some.inj h)).1 (by decide)

theorem test_hyps_BootFetchesTheRom : ([] : List Byte).length + 2 ≤ 3584 := by decide

end Sys2Proof.Tests
end

/-! ## What an execute step does: its effect

Every arm of `exec` answers a next state of one of the shapes of `Effect`; the rules about whole steps
are case splits over these shapes, not over the 34 arms. -/

section
namespace Sys2Proof.Machine

/-- The addresses an execute step may set `pc` to: at most 4 past it, or within what `BNNN` reaches,
`0xFFF + 0xFF` (40_cycle.md R64). -/
def PcReach (s : State) (p : Word) : Prop := p.toNat ≤ s.pc.toNat + 4 ∨ p.toNat ≤ 0x10FE

/-- `Effect s ins t`: from `s`, the execute step of `ins` may answer `t`. One constructor for each shape
of effect. -/
inductive Effect (s : State) : Instr → State → Prop
  /-- registers only, and none but those `MayWriteReg` gives -/
  | regs {ins : Instr} (v : Vector Byte 16) (hv : ∀ q : Reg, ¬ MayWriteReg q ins → v[q] = s.reg q) :
      Effect s ins { s with v := v, pc := s.pc + 2 }
  /-- a jump, a skip, or the wait of `FX0A`: `pc` only -/
  | control {ins : Instr} (p : Word) (hp : PcReach s p) : Effect s ins (s.setPc p)
  | ret {u : State} (a : Word) (hpop : s.pop = some (a, u)) : Effect s .ret (u.setPc a)
  | call {u : State} (nnn : Addr) (hpush : s.push (s.pc + 2) = some u) :
      Effect s (.call nnn) (u.setPc (zext16 nnn))
  | index {ins : Instr} (a : Addr)
      (hins : (∃ nnn, ins = .ldI nnn) ∨ ∃ x, ins = .addI x ∨ ins = .ldFVx x) :
      Effect s ins (s.setIndex a).advance
  /-- the two stores, inside memory -/
  | store {ins : Instr} (bs : List Byte) (hbs : s.i.toNat + bs.length ≤ 4096)
      (hins : (∃ x, ins = .ldBVx x ∧ bs.length = 3) ∨
        ∃ x, ins = .ldMemVx x ∧ bs.length = blockLength x) :
      Effect s ins (s.store (s.ea 0) bs).advance
  | cls (f : Screen) : Effect s .cls (s.setScreen f).advance
  | drw (x y : Reg) (n : Height) (f : Screen) (b : Byte) :
      Effect s (.drw x y n) ((s.setScreen f).setReg regF b).advance
  | delay (x : Reg) (b : Byte) : Effect s (.ldDtVx x) (s.setDelay b).advance
  | sound (x : Reg) (b : Byte) : Effect s (.ldStVx x) (s.setSound b).advance
  | rnd (x : Reg) (nn rand : Byte) : Effect s (.rnd x nn) (s.random x nn rand)
  /-- a fatal fault, raised where its condition holds -/
  | fault {ins : Instr} (c : Cause) (hc : CauseShown s c) : Effect s ins (s.raise c)

/-! ### The shapes most arms have -/

theorem Effect.setReg {s : State} {ins : Instr} {x : Reg} (b : Byte) (hx : MayWriteReg x ins) :
    Effect s ins (s.setReg x b).advance :=
  .regs _ fun _ hq => s.reg_setReg_other x _ b fun e => hq (e ▸ hx)

theorem Effect.setReg_setReg {s : State} {ins : Instr} {x y : Reg} (a b : Byte)
    (hx : MayWriteReg x ins) (hy : MayWriteReg y ins) :
    Effect s ins ((s.setReg x a).setReg y b).advance :=
  .regs _ fun q hq => ((s.setReg x a).reg_setReg_other y q b fun e => hq (e ▸ hy)).trans
    (s.reg_setReg_other x q a fun e => hq (e ▸ hx))

theorem Effect.loadRegs (s : State) (x : Reg) (base : Nat) :
    Effect s (.ldVxMem x) (s.loadRegs base (regsUpTo x)).advance := by
  have hreg : ∀ q, ¬ q ≤ x → (s.loadRegs base (regsUpTo x)).reg q = s.reg q := fun q hq => by
    simp [State.reg_loadRegs, mem_regsUpTo, hq]
  obtain ⟨v, hv⟩ := s.loadRegs_eq base (regsUpTo x)
  rw [hv] at hreg ⊢
  exact .regs v hreg

theorem pcReach_add (s : State) {k : Word} (hk : k.toNat ≤ 4) : PcReach s (s.pc + k) := by
  left
  rw [BitVec.toNat_add]
  exact (Nat.mod_le _ _).trans (by omega)

theorem toNat_zext16_le (nnn : Addr) : (zext16 nnn).toNat ≤ 0xFFF := by
  rw [zext16, BitVec.toNat_setWidth]
  have := nnn.isLt
  omega

theorem Effect.skipIf (s : State) (ins : Instr) (c : Bool) : Effect s ins (s.skipIf c) := by
  refine .control _ ?_
  cases c
  · exact pcReach_add s (by decide)
  · exact pcReach_add s (by decide)

theorem Effect.jumpPlus (s : State) (nnn : Addr) (b : Byte) :
    Effect s (.jpV0 nnn) (s.setPc (zext16 nnn + b.setWidth 16)) := by
  refine .control _ (.inr ?_)
  have hn := toNat_zext16_le nnn
  have hb := b.isLt
  rw [BitVec.toNat_add, BitVec.toNat_setWidth]
  omega

/-! ### The call stack -/

/-- A push writes the stack and `sp` and nothing else. -/
theorem State.push_frame {s u : State} {a : Word} (h : s.push a = some u) :
    ∃ st p, u = { s with stack := st, sp := p } := by
  obtain ⟨-, rfl⟩ := (s.push_eq_some a u).mp h
  exact ⟨_, _, rfl⟩

/-- An entry after a push is the address pushed or the entry before. -/
theorem State.push_stack {s u : State} {a : Word} (h : s.push a = some u) (k : Fin 16) :
    u.stack[k] = a ∨ u.stack[k] = s.stack[k] := by
  obtain ⟨hlt, rfl⟩ := (s.push_eq_some a u).mp h
  by_cases hk : s.sp.val = k.val
  · simp [hk]
  · simp [Vector.getElem_set_ne, hk]

/-- A pop writes `sp` and nothing else, and gives an entry of the stack. -/
theorem State.pop_frame {s u : State} {a : Word} (h : s.pop = some (a, u)) :
    (∃ p, u = { s with sp := p }) ∧ ∃ k : Fin 16, a = s.stack[k] := by
  obtain ⟨hne, ha, rfl⟩ := (s.pop_eq_some a u).mp h
  exact ⟨⟨_, rfl⟩, ⟨s.sp.val - 1, by omega⟩, ha⟩

/-! ### Accesses that may fault -/

/-- A block access of at most 16 bytes has an effect if its action has one inside memory. -/
theorem withBlock_effect {s : State} {ins : Instr} {len : Nat} {act : State → State} (hlen : len ≤ 16)
    (hact : s.i.toNat + len ≤ 4096 → Effect s ins (act s)) :
    ∃ t, withBlock s len act = .next t ∧ Effect s ins t := by
  obtain ⟨hin, he⟩ | ⟨hout, he⟩ := withBlock_cases s len act
  · exact ⟨_, he, hact hin⟩
  · exact ⟨_, he, .fault _ ⟨rfl, by omega⟩⟩

theorem withKey_effect {s : State} {ins : Instr} {x : Reg} {act : Key → State}
    (hact : ∀ k, Effect s ins (act k)) : ∃ t, withKey s x act = .next t ∧ Effect s ins t := by
  obtain ⟨hk, he⟩ | ⟨hk, he⟩ := withKey_cases s x act
  · exact ⟨_, he, hact _⟩
  · exact ⟨_, he, .fault _ ⟨by omega, x, rfl⟩⟩

theorem execRet_effect (s : State) : ∃ t, execRet s = .next t ∧ Effect s .ret t := by
  unfold execRet
  cases hpop : s.pop with
  | none => exact ⟨_, rfl, .fault _ (Fin.ext (s.pop_eq_none.mp hpop))⟩
  | some au => exact ⟨_, rfl, .ret au.1 hpop⟩

theorem execCall_effect (nnn : Addr) (s : State) :
    ∃ t, execCall nnn s = .next t ∧ Effect s (.call nnn) t := by
  unfold execCall
  cases hpush : s.push (s.pc + 2) with
  | none => exact ⟨_, rfl, .fault _ (Fin.ext ((s.push_eq_none _).mp hpush))⟩
  | some u => exact ⟨_, rfl, .call nnn hpush⟩

theorem execLdVxK_effect (x : Reg) (s : State) :
    ∃ t, execLdVxK x s = .next t ∧ Effect s (.ldVxK x) t := by
  unfold execLdVxK
  cases s.lowestKey with
  | none => exact ⟨_, rfl, .control s.pc (.inl (by omega))⟩
  | some k => exact ⟨_, rfl, .setReg _ rfl⟩

/-! ### The execute step -/

/-- Every instruction answers a next state, by an effect of its own. -/
theorem exec_answers (ins : Instr) (s : State) : ∃ t, exec ins s = .next t ∧ Effect s ins t := by
  cases ins with
  | cls => exact ⟨_, rfl, .cls _⟩
  | ret => exact execRet_effect s
  | jp nnn => exact ⟨_, rfl, .control _ (.inr ((toNat_zext16_le nnn).trans (by decide)))⟩
  | call nnn => exact execCall_effect nnn s
  | seImm | sneImm | seReg | sneReg => exact ⟨_, rfl, .skipIf s _ _⟩
  | ldImm | addImm | ldReg | orReg | andReg | xorReg | ldVxDt => exact ⟨_, rfl, .setReg _ rfl⟩
  | addReg => exact ⟨_, rfl, .setReg_setReg _ _ (.inl rfl) (.inr rfl)⟩
  | subReg | shr | subnReg | shl => exact ⟨_, rfl, .setReg_setReg _ _ (.inr rfl) (.inl rfl)⟩
  | ldI nnn => exact ⟨_, rfl, .index _ (.inl ⟨nnn, rfl⟩)⟩
  | addI x => exact ⟨_, rfl, .index _ (.inr ⟨x, .inl rfl⟩)⟩
  | ldFVx x => exact ⟨_, rfl, .index _ (.inr ⟨x, .inr rfl⟩)⟩
  | jpV0 nnn => exact ⟨_, rfl, .jumpPlus s nnn _⟩
  | rnd x nn => exact ⟨_, rfl, .rnd x nn _⟩
  | drw x y n =>
    unfold exec execDrw
    exact withBlock_effect (by omega) fun _ => .drw x y n _ _
  | skp | sknp => exact withKey_effect fun _ => .skipIf s _ _
  | ldVxK x => exact execLdVxK_effect x s
  | ldDtVx x => exact ⟨_, rfl, .delay x _⟩
  | ldStVx x => exact ⟨_, rfl, .sound x _⟩
  | ldBVx x =>
    unfold exec execLdBVx
    exact withBlock_effect (by decide) fun h => .store _ h (.inl ⟨x, rfl, rfl⟩)
  | ldMemVx x =>
    unfold exec execLdMemVx
    have hl : ((regsUpTo x).map s.reg).length = blockLength x := by simp [length_regsUpTo]
    exact withBlock_effect x.isLt fun h => .store _ (by rwa [hl]) (.inr ⟨x, rfl, hl⟩)
  | ldVxMem x =>
    unfold exec execLdVxMem
    exact withBlock_effect x.isLt fun _ => .loadRegs s x _

theorem exec_effect {ins : Instr} {s t : State} (h : exec ins s = .next t) : Effect s ins t := by
  obtain ⟨u, hu, heff⟩ := exec_answers ins s
  cases hu.symm.trans h
  exact heff

/-- A cycle ends at its fetch, or completes the effect of the instruction decoded. -/
theorem cycle_effect {c : Config} {s t : State} (h : cycle c s = .next t) :
    fetch c s = .ended t ∨
      ∃ ins u, (s.runState = .running ∧ s.pc.toNat ≤ 4094 ∧
        decodeWord c.gapFill s.fetchWord = .instr ins) ∧ Effect s ins u ∧ t = complete c u := by
  obtain hend | ⟨ins, u, hrun, hexec, rfl⟩ := cycle_cases c s t h
  · exact .inl hend
  · exact .inr ⟨ins, u, (fetch_eq_run c s ins).mp hrun, exec_effect hexec, rfl⟩

end Sys2Proof.Machine
end

/-! ## The invariant of the core -/

section
namespace Sys2Proof.Machine

/-- The part of `State.CoreInv` that does not speak of the outputs: what an execute step keeps, before
the end of the cycle reports. -/
structure State.Sound (s : State) : Prop where
  canonical : Memory.wf s.mem
  stackBound : ∀ k : Fin 16, s.stack[k].toNat ≤ 4096
  pcBound : s.pc.toNat ≤ 0x10FE
  cause : ∀ cause, s.runState = .halted cause → CauseShown s cause

theorem State.CoreInv.sound {s : State} {c : Config} (h : s.CoreInv c) : s.Sound :=
  ⟨h.canonical, h.stackBound, h.pcBound, h.cause⟩

/-- A running core has no cause to show. -/
theorem State.Sound.of_running {s : State} (hr : s.runState = .running) (hm : Memory.wf s.mem)
    (hs : ∀ k : Fin 16, s.stack[k].toNat ≤ 4096) (hp : s.pc.toNat ≤ 0x10FE) : s.Sound :=
  ⟨hm, hs, hp, fun _ hc => nomatch hr.symm.trans hc⟩

theorem CauseShown.of_eq {s t : State} {c : Cause} (h : CauseShown s c) (hpc : t.pc = s.pc)
    (hi : t.i = s.i) (hsp : t.sp = s.sp) (hreg : ∀ x, t.reg x = s.reg x) : CauseShown t c := by
  cases c with
  | keyIndexOutOfRange b => simpa only [CauseShown, hreg] using h
  | fetchOutOfBounds p => simpa only [CauseShown, hpc] using h
  | memoryOutOfBounds a => simpa only [CauseShown, hi] using h
  | stackOverflow | stackUnderflow => simpa only [CauseShown, hsp] using h

theorem State.Sound.raise {s : State} (h : s.Sound) {c : Cause} (hc : CauseShown s c) :
    (s.raise c).Sound :=
  ⟨h.canonical, h.stackBound, h.pcBound, fun _ e => by
    cases e
    exact hc.of_eq rfl rfl rfl fun _ => rfl⟩

theorem State.Sound.tick {s : State} (h : s.Sound) : s.tick.Sound :=
  ⟨h.canonical, h.stackBound, h.pcBound, fun c e => (h.cause c e).of_eq rfl rfl rfl fun _ => rfl⟩

/-- A report that tells the truth makes a sound state one that has the invariant. -/
theorem State.Sound.report {s : State} (h : s.Sound) {c : Config} {o : CycleOutcome} {b : Bool}
    (ho : OutcomeShown c s (some o)) (hb : b = true → o = .ok ∧ s.st = 0) :
    (s.report o b).CoreInv c where
  canonical := h.canonical
  stackBound := h.stackBound
  pcBound := h.pcBound
  cause c e := (h.cause c e).of_eq rfl rfl rfl fun _ => rfl
  outcome := by cases o <;> exact ho
  tone e := (hb e).imp_left (congrArg some)

/-! ### The execute step -/

/-- The effect of an instruction fetched at an address of memory keeps soundness. -/
theorem State.Sound.effect {s t : State} {ins : Instr} (h : s.Sound) (hr : s.runState = .running)
    (hp : s.pc.toNat ≤ 4094) (heff : Effect s ins t) : t.Sound := by
  have hnext : (s.pc + 2).toNat ≤ 4096 := by bv_omega
  have hadv : (s.pc + 2).toNat ≤ 0x10FE := hnext.trans (by decide)
  cases heff with
  | regs | index | cls | drw | delay | sound | rnd =>
    exact .of_running hr h.canonical h.stackBound hadv
  | control p hreach =>
    exact .of_running hr h.canonical h.stackBound (hreach.elim (fun hle => by simp; omega) id)
  | store bs hbs =>
    exact .of_running hr (Memory.wf_writeBytes _ _ bs h.canonical hbs) h.stackBound hadv
  | ret a hpop =>
    obtain ⟨⟨_, rfl⟩, k, rfl⟩ := State.pop_frame hpop
    exact .of_running hr h.canonical h.stackBound ((h.stackBound k).trans (by decide))
  | call nnn hpush =>
    have hentry := State.push_stack hpush
    obtain ⟨_, _, rfl⟩ := State.push_frame hpush
    refine .of_running hr h.canonical (fun j => ?_) ((toNat_zext16_le nnn).trans (by decide))
    obtain hj | hj := hentry j
    · exact (congrArg BitVec.toNat hj).trans_le hnext
    · exact (congrArg BitVec.toNat hj).trans_le (h.stackBound j)
  | fault c hc => exact h.raise hc

/-! ### The whole cycle -/

/-- The tick that sounds the tone takes `ST` to 0 (R151). -/
theorem State.tick_st_of_tickTone {s : State} (h : s.tickTone = true) : s.tick.st = 0 := by
  have hst : s.st = 1 := by simpa [State.tickTone] using h
  rw [State.tick_st, hst]
  rfl

/-- The end of a cycle reports the truth. -/
theorem State.Sound.complete {s : State} (h : s.Sound) (c : Config) : (complete c s).CoreInv c := by
  cases hr : s.runState with
  | halted cause =>
    rw [complete_halted c s cause hr]
    exact h.report hr (nomatch ·)
  | running =>
    cases hm : c.tickMode with
    | perCycle =>
      rw [complete_running_perCycle c s hr hm]
      exact h.tick.report hr fun hb => ⟨rfl, State.tick_st_of_tickTone hb⟩
    | host =>
      rw [complete_running_host c s hr hm]
      exact h.report hr (nomatch ·)

/-- At any parameters a cycle keeps the invariant of the core. -/
theorem cycle_keeps_coreInv {c : Config} {s t : State} (h : s.CoreInv c) (hcyc : cycle c s = .next t) :
    t.CoreInv c := by
  obtain hend | ⟨ins, u, ⟨hr, hp, -⟩, heff, rfl⟩ := cycle_effect hcyc
  · obtain ⟨cause, hr, rfl⟩ | ⟨hr, hp, rfl⟩ | ⟨hr, -, w, hw, rfl⟩ := (fetch_eq_ended c s t).mp hend
    · exact h.sound.report hr (nomatch ·)
    · exact (h.sound.raise (c := .fetchOutOfBounds s.pc) ⟨rfl, hp⟩).report rfl (nomatch ·)
    · exact h.sound.report ⟨hr, eq_of_decodeWord_unknown hw ▸ hw⟩ (nomatch ·)
  · exact (h.sound.effect hr hp heff).complete c

/-- Settles O25: the effect of the instruction keeps everything but the outputs, and the end of the
cycle reports the truth. -/
theorem stepKeepsCoreInvariant : Obligations.StepKeepsCoreInvariant :=
  fun _ _ h hstep => cycle_keeps_coreInv h hstep

end Sys2Proof.Machine
end

/-! ## What each part of the state is written by -/

section
namespace Sys2Proof.Machine

/-! ### The execute step -/

/-- An effect writes no register but those `MayWriteReg` gives. -/
theorem Effect.reg_of_not_mayWriteReg {s t : State} {ins : Instr} {q : Reg} (heff : Effect s ins t)
    (hq : ¬ MayWriteReg q ins) : t.reg q = s.reg q := by
  cases heff with
  | regs v hv => exact hv q hq
  | drw => exact State.reg_setReg_other _ _ q _ hq
  | rnd => exact State.reg_setReg_other _ _ q _ hq
  | ret a hpop => obtain ⟨⟨_, rfl⟩, -⟩ := State.pop_frame hpop; rfl
  | call nnn hpush => obtain ⟨_, _, rfl⟩ := State.push_frame hpush; rfl
  | control | index | store | cls | delay | sound | fault => rfl

/-- Settles O22: a register outside `MayWriteReg` is the same after every effect. -/
theorem registersChangeOnlyByTheirWriters : Obligations.RegistersChangeOnlyByTheirWriters :=
  fun _ _ _ _ hexec hne => by_contra fun hq => hne ((exec_effect hexec).reg_of_not_mayWriteReg hq)

/-- Settles O23: each effect writes of the stack, `I`, the timers and the counter at most what its
instruction may. -/
theorem specialStateChangesOnlyByItsWriters : Obligations.SpecialStateChangesOnlyByItsWriters := by
  intro ins s t hexec
  have same {α : Type} {a : α} {p : Prop} : a ≠ a → p := absurd rfl
  cases exec_effect hexec with
  | regs | control | store | cls | drw | fault => exact ⟨same, same, same, same, same, same⟩
  | ret a hpop =>
    obtain ⟨⟨_, rfl⟩, -⟩ := State.pop_frame hpop
    exact ⟨same, fun _ => .inl rfl, same, same, same, same⟩
  | call nnn hpush =>
    obtain ⟨_, _, rfl⟩ := State.push_frame hpush
    exact ⟨fun _ => ⟨nnn, rfl⟩, fun _ => .inr ⟨nnn, rfl⟩, same, same, same, same⟩
  | index a hins => exact ⟨same, same, fun _ => hins, same, same, same⟩
  | delay x => exact ⟨same, same, same, fun _ => ⟨x, rfl⟩, same, same⟩
  | sound x => exact ⟨same, same, same, same, fun _ => ⟨x, rfl⟩, same⟩
  | rnd x nn => exact ⟨same, same, same, same, same, fun _ => ⟨x, nn, rfl⟩⟩

/-- An effect leaves the host's parts alone and may halt a core, but not start one. -/
theorem Effect.keeps_host {s t : State} {ins : Instr} (heff : Effect s ins t) :
    t.key = s.key ∧ (s.redraw = true → t.redraw = true) ∧ t.romLoaded = s.romLoaded ∧
      (t.runState = s.runState ∨ ∃ c, t.runState = .halted c) := by
  cases heff with
  | regs | control | index | store | delay | sound | rnd => exact ⟨rfl, id, rfl, .inl rfl⟩
  | cls | drw => exact ⟨rfl, fun _ => rfl, rfl, .inl rfl⟩
  | ret a hpop =>
    obtain ⟨⟨_, rfl⟩, -⟩ := State.pop_frame hpop
    exact ⟨rfl, id, rfl, .inl rfl⟩
  | call nnn hpush =>
    obtain ⟨_, _, rfl⟩ := State.push_frame hpush
    exact ⟨rfl, id, rfl, .inl rfl⟩
  | fault c => exact ⟨rfl, id, rfl, .inr ⟨c, rfl⟩⟩

/-- Only the two display instructions have an effect on the framebuffer or on `redraw`, and they do
not halt. -/
theorem Effect.screen {s t : State} {ins : Instr} (heff : Effect s ins t) :
    (t.fb = s.fb ∧ t.redraw = s.redraw) ∨
      (t.redraw = true ∧ t.runState = s.runState ∧ (ins = .cls ∨ ∃ x y n, ins = .drw x y n)) := by
  cases heff with
  | cls => exact .inr ⟨rfl, rfl, .inl rfl⟩
  | drw x y n => exact .inr ⟨rfl, rfl, .inr ⟨x, y, n, rfl⟩⟩
  | ret a hpop => obtain ⟨⟨_, rfl⟩, -⟩ := State.pop_frame hpop; exact .inl ⟨rfl, rfl⟩
  | call nnn hpush => obtain ⟨_, _, rfl⟩ := State.push_frame hpush; exact .inl ⟨rfl, rfl⟩
  | regs | control | index | store | delay | sound | rnd | fault => exact .inl ⟨rfl, rfl⟩

/-! ### The whole step -/

/-- A cycle that ends at its fetch changes the outputs, and `run_state` where the fetch faults. -/
theorem fetch_ended_keeps {c : Config} {s t : State} (h : fetch c s = .ended t) :
    ∃ r o b, t = { s with runState := r, outcome := some o, tone := b } ∧
      (r = s.runState ∨ s.runState = .running ∧ ∃ cause, r = .halted cause) := by
  obtain ⟨cause, -, rfl⟩ | ⟨hr, -, rfl⟩ | ⟨-, -, w, -, rfl⟩ := (fetch_eq_ended c s t).mp h
  · exact ⟨s.runState, .stillHalted cause, false, rfl, .inl rfl⟩
  · exact ⟨.halted _, .fatal _, false, rfl, .inr ⟨hr, _, rfl⟩⟩
  · exact ⟨s.runState, .unknownOpcode s.pc w, false, rfl, .inl rfl⟩

theorem complete_outcome_of_running (c : Config) {s : State} (h : s.runState = .running) :
    (complete c s).outcome = some .ok := by
  cases hm : c.tickMode with
  | perCycle => rw [complete_running_perCycle c s h hm, State.report_outcome]
  | host => rw [complete_running_host c s h hm, State.report_outcome]

/-- Settles O18: neither the fetch, nor an effect, nor the end of the cycle writes the host's parts, and
only a fault writes `run_state`. -/
theorem coreWritesOnlyItsOwnState : Obligations.CoreWritesOnlyItsOwnState := by
  intro s t hstep
  obtain hend | ⟨ins, u, ⟨hr, -, -⟩, heff, rfl⟩ := cycle_effect hstep
  · obtain ⟨r, o, b, rfl, hrun⟩ := fetch_ended_keeps hend
    exact ⟨rfl, id, rfl, hrun⟩
  · obtain ⟨hkey, hredraw, hrom, hrun⟩ := heff.keeps_host
    obtain ⟨dt, st, o, b, he⟩ := complete_keeps config u
    rw [he]
    exact ⟨hkey, hredraw, hrom, hrun.imp_right fun hc => ⟨hr, hc⟩⟩

/-- Settles O21: the screen differs only after an effect of `00E0` or `DXYN`, and neither of them halts, so
the cycle reports `Ok`. -/
theorem onlyDisplayInstructionsChangeScreen : Obligations.OnlyDisplayInstructionsChangeScreen := by
  intro s t hstep hne
  obtain hend | ⟨ins, u, ⟨hr, -, hdec⟩, heff, rfl⟩ := cycle_effect hstep
  · obtain ⟨r, o, b, rfl, -⟩ := fetch_ended_keeps hend
    exact (hne.elim (· rfl) (· rfl)).elim
  · have hkeep : (complete config u).fb = u.fb ∧ (complete config u).redraw = u.redraw := by
      obtain ⟨dt, st, o, b, he⟩ := complete_keeps config u
      rw [he]
      exact ⟨rfl, rfl⟩
    rw [hkeep.1, hkeep.2] at hne
    obtain ⟨hfb, hred⟩ | ⟨hred, hrun, hins⟩ := heff.screen
    · exact (hne.elim (· hfb) (· hred)).elim
    · refine ⟨hkeep.2.trans hred, complete_outcome_of_running _ (hrun.trans hr), ?_⟩
      obtain rfl | ⟨x, y, n, rfl⟩ := hins
      · exact .inl hdec
      · exact .inr ⟨x, y, n, hdec⟩

end Sys2Proof.Machine
end

/-! ## A halted core -/

section
namespace Sys2Proof.Machine

theorem cycle_halted {c : Config} {s : State} {cause : Cause} (h : s.runState = .halted cause) :
    cycle c s = .next (s.report (.stillHalted cause) false) := by
  have hend := (fetch_eq_ended c s _).mpr (.inl ⟨cause, h, rfl⟩)
  simp only [cycle, hend]

/-- Every cycle of a halted core reports the same, so any number of them comes to one report. -/
theorem core_run_halted (n : Nat) {s : State} {cause : Cause} (h : s.runState = .halted cause) :
    Sys2Proof.core.run (n + 1) s = .next (s.report (.stillHalted cause) false) := by
  induction n generalizing s with
  | zero => exact core_run_succ 0 s _ (cycle_halted h)
  | succ n ih => exact (core_run_succ (n + 1) s _ (cycle_halted h)).trans (ih h)

theorem keepsAllBut_report (s : State) (o : CycleOutcome) (b : Bool) :
    KeepsAllBut [.outcome, .tone] s (s.report o b) := by
  intro p hp
  cases p with
  | outcome | tone => simp at hp
  | mem | v => exact fun _ => rfl
  | i | pc | stack | sp | dt | st | key | fb | redraw | runState | draws | romLoaded => rfl

theorem State.loadRom_runState (s : State) (bytes : List Byte) :
    (s.loadRom bytes).2.runState = s.runState := by
  unfold State.loadRom
  split <;> rfl

/-- Of the host's operations only `Reset` writes `run_state`. -/
theorem HostOp.act_runState (c : Config) (s : State) {op : HostOp} (hop : op ≠ .reset) :
    (op.act c s).2.runState = s.runState := by
  cases op with
  | reset => exact absurd rfl hop
  | loadRom bytes => exact s.loadRom_runState bytes
  | setKey | clearRedraw | hostSkip | timerTick => rfl

theorem Event.next_halted {c : Config} {s t : State} {e : Event} {cause : Cause}
    (hne : e ≠ .host .reset) (h : s.runState = .halted cause) (hnext : e.next c s = some t) :
    t.runState = .halted cause := by
  cases e with
  | cycle =>
    simp only [Event.next, cycle_halted h, Option.some.injEq] at hnext
    exact hnext ▸ h
  | host op =>
    simp only [Event.next, Option.ite_none_right_eq_some, Option.some.injEq] at hnext
    obtain ⟨-, rfl⟩ := hnext
    exact (op.act_runState c s fun e => hne (congrArg Event.host e)).trans h

theorem runEvents_halted {c : Config} {es : List Event} {s t : State} {cause : Cause}
    (hes : Event.host .reset ∉ es) (h : s.runState = .halted cause)
    (hrun : runEvents c es s = some t) : t.runState = .halted cause := by
  induction es generalizing s with
  | nil => exact Option.some.inj hrun ▸ h
  | cons e es ih =>
    obtain ⟨hne, hes⟩ := not_or.mp (List.mem_cons.not.mp hes)
    simp only [runEvents] at hrun
    cases hnext : e.next c s with
    | none => simp [hnext] at hrun
    | some u =>
      rw [hnext] at hrun
      exact ih hes (Event.next_halted (Ne.symm hne) h hnext) hrun

/-- Settles O10: every cycle repeats the report, and no event but `Reset` writes `run_state`. -/
theorem haltedCoreStaysHalted : Obligations.HaltedCoreStaysHalted := by
  intro s cause h
  refine ⟨fun n => ⟨_, core_run_halted n h, rfl, rfl, keepsAllBut_report s _ _⟩, ?_⟩
  rintro cfg es hes ⟨t, hrun, hrunning⟩
  exact nomatch (runEvents_halted hes h hrun).symm.trans hrunning

end Sys2Proof.Machine
end

/-! ## The outputs of the last cycle -/

section
namespace Sys2Proof.Machine

/-- `s` with other outputs of the last cycle. -/
def State.withOutputs (o : Option CycleOutcome) (b : Bool) (s : State) : State :=
  { s with outcome := o, tone := b }

/-- A result with its next state, if any, changed by `f`. -/
def mapNext (f : State → State) : Result → Result
  | .next s => .next (f s)
  | .fault r => .fault r
  | .refused r => .refused r

section Outputs
variable {o : Option CycleOutcome} {b : Bool} {s : State}

theorem withBlock_withOutputs {len : Nat} {act : State → State}
    (hact : act (s.withOutputs o b) = (act s).withOutputs o b) :
    withBlock (s.withOutputs o b) len act = mapNext (State.withOutputs o b) (withBlock s len act) := by
  have hi : (s.withOutputs o b).i = s.i := rfl
  unfold withBlock
  rw [hi, hact]
  split <;> rfl

theorem withKey_withOutputs {x : Reg} {act act' : Key → State}
    (hact : ∀ k, act' k = (act k).withOutputs o b) :
    withKey (s.withOutputs o b) x act' = mapNext (State.withOutputs o b) (withKey s x act) := by
  have hreg : (s.withOutputs o b).reg x = s.reg x := rfl
  unfold withKey
  rw [hreg]
  cases keyOf (s.reg x) with
  | none => rfl
  | some k => exact congrArg Host.Outcome.next (hact k)

theorem execRet_withOutputs :
    execRet (s.withOutputs o b) = mapNext (State.withOutputs o b) (execRet s) := by
  unfold execRet State.pop
  by_cases h : s.sp.val = 0
  · have h' : (s.withOutputs o b).sp.val = 0 := h
    rw [dif_pos h, dif_pos h']
    rfl
  · have h' : ¬ (s.withOutputs o b).sp.val = 0 := h
    rw [dif_neg h, dif_neg h']
    rfl

theorem execCall_withOutputs (nnn : Addr) :
    execCall nnn (s.withOutputs o b) = mapNext (State.withOutputs o b) (execCall nnn s) := by
  unfold execCall State.push
  by_cases h : s.sp.val < 16
  · have h' : (s.withOutputs o b).sp.val < 16 := h
    rw [dif_pos h, dif_pos h']
    rfl
  · have h' : ¬ (s.withOutputs o b).sp.val < 16 := h
    rw [dif_neg h, dif_neg h']
    rfl

theorem execLdVxK_withOutputs (x : Reg) :
    execLdVxK x (s.withOutputs o b) = mapNext (State.withOutputs o b) (execLdVxK x s) := by
  have hkey : (s.withOutputs o b).lowestKey = s.lowestKey := rfl
  unfold execLdVxK
  rw [hkey]
  cases s.lowestKey with
  | none => rfl
  | some k => rfl

theorem State.loadRegs_withOutputs (base : Nat) (js : List Reg) :
    (s.withOutputs o b).loadRegs base js = (s.loadRegs base js).withOutputs o b := by
  have gen : ∀ t : State, js.foldl (fun t j => t.setReg j (s.byteAt (base + j.val)))
      (t.withOutputs o b) =
        (js.foldl (fun t j => t.setReg j (s.byteAt (base + j.val))) t).withOutputs o b := by
    induction js with
    | nil => exact fun _ => rfl
    | cons j js ih => exact fun t => ih (t.setReg j _)
  exact gen s

/-- The execute step carries the outputs along and reads them nowhere. -/
theorem exec_withOutputs (ins : Instr) :
    exec ins (s.withOutputs o b) = mapNext (State.withOutputs o b) (exec ins s) := by
  cases ins with
  | cls | jp | seImm | sneImm | seReg | sneReg | jpV0 | ldImm | addImm | ldReg | orReg | andReg
  | xorReg | addReg | subReg | shr | subnReg | shl | rnd | ldI | addI | ldFVx | ldVxDt | ldDtVx
  | ldStVx => rfl
  | ret => exact execRet_withOutputs
  | call nnn => exact execCall_withOutputs nnn
  | skp | sknp => exact withKey_withOutputs fun _ => rfl
  | ldVxK x => exact execLdVxK_withOutputs x
  | drw =>
    unfold exec execDrw
    exact withBlock_withOutputs rfl
  | ldBVx =>
    unfold exec execLdBVx
    exact withBlock_withOutputs rfl
  | ldMemVx =>
    unfold exec execLdMemVx
    exact withBlock_withOutputs rfl
  | ldVxMem x =>
    unfold exec execLdVxMem
    exact withBlock_withOutputs (congrArg State.advance (State.loadRegs_withOutputs _ _))

theorem fetch_withOutputs (c : Config) : fetch c (s.withOutputs o b) = fetch c s := by
  cases hf : fetch c s with
  | run ins => exact (fetch_eq_run c (s.withOutputs o b) ins).mpr ((fetch_eq_run c s ins).mp hf)
  | ended t =>
    exact (fetch_eq_ended c (s.withOutputs o b) t).mpr ((fetch_eq_ended c s t).mp hf)

theorem complete_withOutputs (c : Config) : complete c (s.withOutputs o b) = complete c s := by
  cases hr : s.runState with
  | halted cause =>
    rw [complete_halted c s cause hr, complete_halted c (s.withOutputs o b) cause hr]
    rfl
  | running =>
    cases hm : c.tickMode with
    | perCycle =>
      rw [complete_running_perCycle c s hr hm, complete_running_perCycle c (s.withOutputs o b) hr hm]
      rfl
    | host =>
      rw [complete_running_host c s hr hm, complete_running_host c (s.withOutputs o b) hr hm]
      rfl

end Outputs

/-- Settles O24: fetch does not see the outputs, the execute step carries them along, and the end of
the cycle overwrites them. -/
theorem outputsAreNotReadByTheCore : Obligations.OutputsAreNotReadByTheCore := by
  intro c s o b
  show cycle c (s.withOutputs o b) = cycle c s
  unfold cycle
  rw [fetch_withOutputs]
  cases fetch c s with
  | ended t => rfl
  | run ins =>
    obtain ⟨u, hexec, -⟩ := exec_answers ins s
    simp only [exec_withOutputs, hexec, mapNext, complete_withOutputs]

end Sys2Proof.Machine
end

/-! ## Nested calls -/

section
namespace Sys2Proof.Machine

/-- A push below 16 entries adds one entry above those that are live. -/
theorem State.push_of_lt {s : State} (a : Word) (h : s.sp.val < 16) :
    ∃ u, s.push a = some u ∧ u.sp.val = s.sp.val + 1 ∧ u.runState = s.runState ∧
      ∀ j : Fin 16, j.val < s.sp.val → u.stack[j] = s.stack[j] :=
  ⟨_, (s.push_eq_some a _).mpr ⟨h, rfl⟩, rfl, rfl, fun j hj => by
    simp [Vector.getElem_set_ne, hj.ne']⟩

/-- `2NNN` below 16 entries: what is on the stack stays, and one entry is added (R72). -/
theorem exec_call_of_lt (nnn : Addr) {s : State} (h : s.sp.val < 16) :
    ∃ t, exec (.call nnn) s = .next t ∧ t.sp.val = s.sp.val + 1 ∧ t.runState = s.runState ∧
      ∀ j : Fin 16, j.val < s.sp.val → t.stack[j] = s.stack[j] := by
  obtain ⟨u, hpush, hu⟩ := State.push_of_lt (s.pc + 2) h
  exact ⟨u.setPc (zext16 nnn), by simp only [exec, execCall, hpush], hu⟩

/-- `2NNN` on the full stack (R140). -/
theorem exec_call_full (nnn : Addr) {s : State} (h : s.sp.val = 16) :
    exec (.call nnn) s = .next (s.raise .stackOverflow) := by
  simp only [exec, execCall, (s.push_eq_none _).mpr h]

theorem haltsWith_raise (s : State) (c : Cause) : HaltsWith c s (s.raise c) := by
  refine ⟨rfl, fun p hp => ?_⟩
  cases p with
  | runState => simp at hp
  | mem | v => exact fun _ => rfl
  | i | pc | stack | sp | dt | st | key | fb | redraw | outcome | tone | draws | romLoaded => rfl

/-- Settles O35, by induction on the calls: each adds one entry above those that are live. -/
theorem callsNestSixteenDeep : Obligations.CallsNestSixteenDeep := by
  intro targets
  induction targets with
  | nil =>
    exact fun s _ => ⟨s, rfl, rfl, rfl, fun _ _ => rfl,
      fun hfull nnn => ⟨_, exec_call_full nnn hfull, haltsWith_raise s _⟩⟩
  | cons nnn targets ih =>
    intro s hfit
    rw [List.length_cons] at hfit
    obtain ⟨u, hcall, hsp, hrun, hstack⟩ := exec_call_of_lt nnn (s := s) (by omega)
    obtain ⟨t, hcalls, hsp', hrun', hstack', hfull⟩ := ih u (by omega)
    refine ⟨t, ?_, ?_, hrun'.trans hrun, fun j hj => ?_, hfull⟩
    · rw [List.foldl_cons]
      simpa only [hcall] using hcalls
    · rw [List.length_cons]
      omega
    · exact (hstack' j (by omega)).trans (hstack j hj)

end Sys2Proof.Machine
end

/-! ## The decoder undoes the encoder -/

section
namespace Sys2Proof

/-- A gap pattern gives its instruction to a core that has it. -/
theorem gapped_of_wellFormed {g : Bool} {w : Word} {ins : Instr} (hgap : ins.isGap = true)
    (h : ins.wellFormed g = true) : gapped g w ins = .instr ins := by
  rw [gapped_eq_instr]
  simpa [Instr.wellFormed, hgap] using h

/-- The word of an instruction decodes to it: the class selects the dispatch level, the low nibble or
the low byte the pattern there, and the fields are the operands that were packed. -/
theorem decodeWord_encode {g : Bool} {ins : Instr} (h : ins.wellFormed g = true) :
    decodeWord g (encode ins) = .instr ins := by
  cases ins with
  | cls | ret => rfl
  | jp | call | ldI | seImm | sneImm | ldImm | addImm | drw => simp [decodeWord, encode]
  | seReg => simp [decodeWord, decodeClass5, encode]
  | ldReg | andReg | xorReg | addReg | subReg | shr => simp [decodeWord, decodeClass8, encode]
  | skp | sknp => simp [decodeWord, decodeClassE, encode]
  | ldVxDt | ldDtVx | ldStVx | addI | ldVxMem => simp [decodeWord, decodeClassF, encode]
  | orReg | subnReg | shl => simp [decodeWord, decodeClass8, encode, gapped_of_wellFormed rfl h]
  | sneReg => simp [decodeWord, decodeClass9, encode, gapped_of_wellFormed rfl h]
  | jpV0 | rnd => simp [decodeWord, encode, gapped_of_wellFormed rfl h]
  | ldVxK | ldFVx | ldBVx | ldMemVx =>
    simp [decodeWord, decodeClassF, encode, gapped_of_wellFormed rfl h]

/-- The head of a byte string that decodes is taken off, and the rest is left. -/
theorem decode_of_decodeWord {g : Bool} {hi lo : Byte} {ins : Instr}
    (h : decodeWord g (wordOfBytes hi lo) = .instr ins) (rest : List Byte) :
    decode g (hi :: lo :: rest) = .ok (ins, rest) := by
  simp only [decode, h]

/-- Settles O1: the two bytes make up the word of the instruction again, and that word decodes to it. -/
theorem decodeOfEncode : Obligations.DecodeOfEncode := by
  intro g ins rest h
  refine decode_of_decodeWord ?_ rest
  rw [wordOfBytes_bytes]
  exact decodeWord_encode h

/-! ### A core decodes only what it has -/

/-- What a word decodes to is well formed: where a pattern is reached, its instruction is none of the
gap instructions, or it is one and `GAP_FILL` is true (R49, R51). -/
theorem wellFormed_of_decodeWord {g : Bool} {w : Word} {ins : Instr}
    (h : decodeWord g w = .instr ins) : ins.wellFormed g = true := by
  revert h ins
  simp only [decodeWord, decodeClass0, decodeClass5, decodeClass8, decodeClass9, decodeClassE,
    decodeClassF]
  repeat' split
  all_goals simp [gapped_eq_instr, Instr.wellFormed, Instr.isGap]

end Sys2Proof
end

/-! ## Memory is written by the two stores -/

section
namespace Sys2Proof.Machine

/-- `ins` is one of the two stores, and writes `len` bytes from `I` on (48_gap_fill.md R119, R120). -/
def StoresBytes (ins : Instr) (len : Nat) : Prop :=
  (∃ x, ins = .ldBVx x ∧ len = 3) ∨ ∃ x, ins = .ldMemVx x ∧ len = blockLength x

/-- Both stores are gap instructions (R51). -/
theorem StoresBytes.isGap {ins : Instr} {len : Nat} (h : StoresBytes ins len) : ins.isGap = true := by
  obtain ⟨x, rfl, -⟩ | ⟨x, rfl, -⟩ := h
  · rfl
  · rfl

/-- An effect leaves memory as it is, or writes the bytes of a store from `I` on. -/
theorem Effect.mem {s t : State} {ins : Instr} (heff : Effect s ins t) :
    t.mem = s.mem ∨
      ∃ bs, StoresBytes ins bs.length ∧ t.mem = Memory.writeBytes s.mem s.i.toNat bs := by
  cases heff with
  | store bs _ hins => exact .inr ⟨bs, hins, rfl⟩
  | ret a hpop => obtain ⟨⟨_, rfl⟩, -⟩ := State.pop_frame hpop; exact .inl rfl
  | call nnn hpush => obtain ⟨_, _, rfl⟩ := State.push_frame hpush; exact .inl rfl
  | regs | control | index | cls | drw | delay | sound | rnd | fault => exact .inl rfl

/-- A cycle leaves memory as it is, or runs a store and writes its bytes from `I` on. -/
theorem cycle_mem {c : Config} {s t : State} (h : cycle c s = .next t) :
    t.mem = s.mem ∨ ∃ ins bs, decodeWord c.gapFill s.fetchWord = .instr ins ∧
      StoresBytes ins bs.length ∧ t.mem = Memory.writeBytes s.mem s.i.toNat bs := by
  obtain hend | ⟨ins, u, ⟨-, -, hdec⟩, heff, rfl⟩ := cycle_effect h
  · obtain ⟨r, o, b, rfl, -⟩ := fetch_ended_keeps hend
    exact .inl rfl
  · obtain ⟨dt, st, o, b, he⟩ := complete_keeps c u
    rw [he]
    exact heff.mem.imp_right fun ⟨bs, hst, hmem⟩ => ⟨ins, bs, hdec, hst, hmem⟩

/-- Settles O19: a byte outside those a store writes reads as before. -/
theorem onlyStoresChangeMemory : Obligations.OnlyStoresChangeMemory := by
  intro s t a hstep hne
  unfold State.byteAt at hne
  obtain hmem | ⟨ins, bs, hdec, hst, hmem⟩ := cycle_mem hstep
  · exact absurd (by rw [hmem]) hne
  · have hin : s.i.toNat ≤ a ∧ a < s.i.toNat + bs.length := by
      by_contra hout
      rw [hmem] at hne
      exact hne (Memory.read_writeBytes_other s.mem s.i.toNat bs a (by omega))
    refine ⟨ins, hdec, hst.imp ?_ ?_⟩
    · rintro ⟨x, rfl, hlen⟩
      exact ⟨x, rfl, by omega⟩
    · rintro ⟨x, rfl, hlen⟩
      unfold blockLength at hlen
      exact ⟨x, rfl, by omega⟩

/-- Settles O20: both stores are gap instructions, which no word decodes to without `GAP_FILL`. -/
theorem noStoreWithoutGapFill : Obligations.NoStoreWithoutGapFill := by
  intro c s t hg hcyc
  obtain hmem | ⟨ins, bs, hdec, hst, -⟩ := cycle_mem hcyc
  · exact hmem
  · have hwf := wellFormed_of_decodeWord hdec
    simp [Instr.wellFormed, hg, hst.isGap] at hwf

end Sys2Proof.Machine
end

/-! ## Stored bytes are fetched -/

section
namespace Sys2Proof.Machine

/-- The first byte of a word is its high one (20_memory.md R35). -/
theorem toNat_wordOfBytes (hi lo : Byte) :
    (wordOfBytes hi lo).toNat = 256 * hi.toNat + lo.toNat := by
  rw [wordOfBytes, BitVec.toNat_append, ← Nat.shiftLeft_add_eq_or_of_lt lo.isLt, Nat.shiftLeft_eq]
  omega

/-- `FX55` inside memory (48_gap_fill.md R120). -/
theorem exec_ldMemVx_of_fits {x : Reg} {s : State} (hfit : s.i.toNat + x.val ≤ 4095) :
    exec (.ldMemVx x) s = .next (s.store (s.ea 0) ((regsUpTo x).map s.reg)).advance := by
  obtain ⟨-, he⟩ | ⟨hout, -⟩ := withBlock_cases s (blockLength x)
    fun s => (s.store (s.ea 0) ((regsUpTo x).map s.reg)).advance
  · exact he
  · unfold blockLength at hout
    omega

/-- After a block store the byte at `I + r` is register `r`. -/
theorem State.byteAt_store_regsUpTo {x r : Reg} {s : State} (hwf : Memory.wf s.mem)
    (hfit : s.i.toNat + x.val ≤ 4095) (hr : r ≤ x) :
    (s.store (s.ea 0) ((regsUpTo x).map s.reg)).byteAt (s.ea r.val) = s.reg r := by
  have hlen : ((regsUpTo x).map s.reg).length = x.val + 1 := by
    rw [List.length_map, length_regsUpTo, blockLength]
  have hrx : r.val ≤ x.val := hr
  have hbyte := s.byteAt_store (s.ea 0) ((regsUpTo x).map s.reg) r.val hwf
    (by rw [hlen]; exact Nat.succ_le_succ hfit) (by omega)
  refine hbyte.trans (Option.some.inj ?_)
  rw [← List.getElem?_eq_getElem, List.getElem?_map, getElem_regsUpTo x r hr, Option.map_some]

/-- Settles O49: the fetch reads the two bytes stored from registers `j` and `j + 1`, high byte
first. -/
theorem storedBytesAreFetched : Obligations.StoredBytesAreFetched := by
  intro x j s hwf hfit hj
  refine ⟨_, exec_ldMemVx_of_fits hfit, ?_⟩
  have hjx : j.val < x.val := hj
  have hsucc : (j + 1).val = j.val + 1 := Fin.val_add_one_of_lt' (by omega)
  have hpc : (BitVec.ofNat 16 (s.ea j.val)).toNat = s.ea j.val :=
    Nat.mod_eq_of_lt (by unfold State.ea; omega)
  have hhi := State.byteAt_store_regsUpTo hwf hfit hj.le
  have hlo := State.byteAt_store_regsUpTo hwf hfit (Fin.le_def.mpr (hsucc.trans_le hjx))
  rw [hsucc] at hlo
  unfold State.fetchWord
  rw [toNat_wordOfBytes, State.setPc_pc, hpc]
  exact congrArg₂ (fun hi lo : Byte => 256 * hi.toNat + lo.toNat) hhi hlo

end Sys2Proof.Machine
end

/-! ## The encoder undoes the decoder -/

section
namespace Sys2Proof

/-! ### A word is packed from its class, its fields and its dispatch value -/

section packing
variable {w : Word} {c : BitVec 4}

theorem packNNN_of_class (hc : classOf w = c) : packNNN c (fieldNNN w) = w :=
  hc ▸ packNNN_fields w

theorem packXNN_of_class {nn : Byte} (hc : classOf w = c) (hnn : fieldNN w = nn) :
    packXNN c (fieldX w) nn = w :=
  hc ▸ hnn ▸ packXNN_fields w

theorem packXYN_of_class {n : BitVec 4} (hc : classOf w = c) (hn : lowNibble w = n) :
    packXYN c (fieldX w) (fieldY w) n = w :=
  hc ▸ hn ▸ packXYN_fields w

end packing

/-! ### What each dispatch level decodes to, encoded -/

/-- The answer is unknown, or an instruction whose encoding is `w`. -/
def Decoded.EncodesTo (w : Word) : Decoded → Prop
  | .instr ins => encode ins = w
  | .unknown _ => True

section levels
variable {g : Bool} {w : Word}

theorem encodesTo_gapped {ins : Instr} (h : encode ins = w) : (gapped g w ins).EncodesTo w := by
  cases g with
  | false => trivial
  | true => exact h

theorem encodesTo_decodeClass0 : (decodeClass0 w).EncodesTo w := by
  unfold decodeClass0
  split
  next hw => exact hw.symm
  next =>
    split
    next hw => exact hw.symm
    next => trivial

theorem encodesTo_decodeClass5 (hc : classOf w = 0x5#4) : (decodeClass5 w).EncodesTo w := by
  unfold decodeClass5
  split
  next hn => exact packXYN_of_class hc hn
  next => trivial

theorem encodesTo_decodeClass8 (hc : classOf w = 0x8#4) : (decodeClass8 g w).EncodesTo w := by
  unfold decodeClass8
  split
  case h_2 | h_8 | h_9 => exact encodesTo_gapped (packXYN_of_class hc ‹_›)
  case h_10 => trivial
  all_goals exact packXYN_of_class hc ‹_›

theorem encodesTo_decodeClass9 (hc : classOf w = 0x9#4) : (decodeClass9 g w).EncodesTo w := by
  unfold decodeClass9
  split
  next hn => exact encodesTo_gapped (packXYN_of_class hc hn)
  next => trivial

theorem encodesTo_decodeClassE (hc : classOf w = 0xE#4) : (decodeClassE w).EncodesTo w := by
  unfold decodeClassE
  split
  case h_3 => trivial
  all_goals exact packXNN_of_class hc ‹_›

theorem encodesTo_decodeClassF (hc : classOf w = 0xF#4) : (decodeClassF g w).EncodesTo w := by
  unfold decodeClassF
  split
  case h_2 | h_6 | h_7 | h_8 => exact encodesTo_gapped (packXNN_of_class hc ‹_›)
  case h_10 => trivial
  all_goals exact packXNN_of_class hc ‹_›

/-- Whatever a word decodes to, its encoding is the word. -/
theorem encodesTo_decodeWord : (decodeWord g w).EncodesTo w := by
  unfold decodeWord
  split
  case h_1 => exact encodesTo_decodeClass0
  case h_2 hc | h_3 hc | h_11 hc => exact packNNN_of_class hc
  case h_4 hc | h_5 hc | h_7 hc | h_8 hc => exact packXNN_of_class hc rfl
  case h_6 hc => exact encodesTo_decodeClass5 hc
  case h_9 hc => exact encodesTo_decodeClass8 hc
  case h_10 hc => exact encodesTo_decodeClass9 hc
  case h_12 hc => exact encodesTo_gapped (packNNN_of_class hc)
  case h_13 hc => exact encodesTo_gapped (packXNN_of_class hc rfl)
  case h_14 hc => exact packXYN_of_class hc rfl
  case h_15 hc => exact encodesTo_decodeClassE hc
  case h_16 hc => exact encodesTo_decodeClassF hc
  case h_17 => trivial

end levels

/-- A word decodes to the instruction it encodes, where the core has it, and to no other (R49 to
R51). -/
theorem decodeWord_eq_instr_iff {g : Bool} {w : Word} {ins : Instr} :
    decodeWord g w = .instr ins ↔ encode ins = w ∧ ins.wellFormed g = true := by
  constructor
  · intro h
    have henc : (decodeWord g w).EncodesTo w := encodesTo_decodeWord
    rw [h] at henc
    exact ⟨henc, wellFormed_of_decodeWord h⟩
  · rintro ⟨rfl, hwf⟩
    exact decodeWord_encode hwf

/-- A byte string that decodes is two bytes, whose word decodes, and the rest. -/
theorem eq_of_decode_eq_ok {g : Bool} {bytes rest : List Byte} {ins : Instr}
    (h : decode g bytes = .ok (ins, rest)) :
    ∃ hi lo, bytes = hi :: lo :: rest ∧ decodeWord g (wordOfBytes hi lo) = .instr ins := by
  match bytes with
  | [] | [_] => cases h
  | hi :: lo :: tail =>
    simp only [decode] at h
    split at h
    next hd => cases h; exact ⟨hi, lo, rfl, hd⟩
    next => cases h

/-- Settles O2: the word of the two bytes is the encoding of the instruction, so they are its two
bytes. -/
theorem encodeOfDecode : Obligations.EncodeOfDecode := by
  intro g bytes rest ins h
  obtain ⟨hi, lo, rfl, hdec⟩ := eq_of_decode_eq_ok h
  obtain ⟨henc, hwf⟩ := decodeWord_eq_instr_iff.mp hdec
  refine ⟨hwf, ?_⟩
  rw [encodeBytes, henc, highByte_wordOfBytes, lowByte_wordOfBytes]
  rfl

/-- Settles O5: `GAP_FILL` decides only which instructions are well formed, not which word encodes
one. -/
theorem gapFillOnlyAddsGapInstructions : Obligations.GapFillOnlyAddsGapInstructions := by
  intro w ins
  simp [decodeWord_eq_instr_iff, Instr.wellFormed]

/-- Settles O6, by running the decoder on the twelve words. -/
theorem specWordsDecode : Obligations.SpecWordsDecode :=
  ⟨rfl, rfl, rfl, rfl, rfl, rfl, rfl, rfl, rfl, rfl, rfl, rfl⟩

end Sys2Proof
end

/-! ## The decoder follows the opcode map -/

section
namespace Sys2Proof
open Sys2Proof.Machine

/-! ### The row of an instruction -/

/-- One instruction for each row of the opcode map, in the map's order. -/
def rowInstrs : List Instr :=
  [.cls, .ret, .jp 0, .call 0, .seImm 0 0, .sneImm 0 0, .seReg 0 0, .ldImm 0 0, .addImm 0 0,
    .ldReg 0 0, .andReg 0 0, .xorReg 0 0, .addReg 0 0, .subReg 0 0, .shr 0 0, .ldI 0, .drw 0 0 0,
    .skp 0, .sknp 0, .ldVxDt 0, .ldDtVx 0, .ldStVx 0, .addI 0, .ldVxMem 0,
    .orReg 0 0, .subnReg 0 0, .shl 0 0, .sneReg 0 0, .jpV0 0, .rnd 0 0, .ldVxK 0, .ldFVx 0,
    .ldBVx 0, .ldMemVx 0]

theorem opcodeMap_eq_map_rowOf : opcodeMap = rowInstrs.map rowOf := rfl

open Laws.EncodeSelectsRow in
theorem encode_selects_rowOf : ∀ ins : Instr, Statement ins
  | .cls => cls | .ret => ret | .jp a => jp a | .call a => call a
  | .seImm x b => seImm x b | .sneImm x b => sneImm x b | .seReg x y => seReg x y
  | .ldImm x b => ldImm x b | .addImm x b => addImm x b | .ldReg x y => ldReg x y
  | .orReg x y => orReg x y | .andReg x y => andReg x y | .xorReg x y => xorReg x y
  | .addReg x y => addReg x y | .subReg x y => subReg x y | .shr x y => shr x y
  | .subnReg x y => subnReg x y | .shl x y => shl x y | .sneReg x y => sneReg x y
  | .ldI a => ldI a | .jpV0 a => jpV0 a | .rnd x b => rnd x b | .drw x y n => drw x y n
  | .skp x => skp x | .sknp x => sknp x | .ldVxDt x => ldVxDt x | .ldVxK x => ldVxK x
  | .ldDtVx x => ldDtVx x | .ldStVx x => ldStVx x | .addI x => addI x | .ldFVx x => ldFVx x
  | .ldBVx x => ldBVx x | .ldMemVx x => ldMemVx x | .ldVxMem x => ldVxMem x

theorem rowOf_mem_opcodeMap (ins : Instr) : rowOf ins ∈ opcodeMap :=
  have ⟨_, hmem, _⟩ := encode_selects_rowOf ins
  hmem

/-- On a core that has the instruction, its row is selected by the words that agree with its encoding
under the mask. -/
theorem rowOf_selects_iff {g : Bool} {w : Word} {ins : Instr} :
    (rowOf ins).selects g w = true ↔
      ins.wellFormed g = true ∧ w &&& (rowOf ins).mask = encode ins &&& (rowOf ins).mask := by
  obtain ⟨hself, -, hgap⟩ := encode_selects_rowOf ins
  have hval : encode ins &&& (rowOf ins).mask = (rowOf ins).value := by
    simpa [Row.selects] using hself
  simp [Row.selects, hval, hgap, Instr.wellFormed]

/-! ### What a mask tells of a word -/

/-- Words that agree under a mask agree in every slice where the mask is all ones. -/
theorem extractLsb'_eq_of_mask {w v m : Word} {start len : Nat} (h : w &&& m = v &&& m)
    (hm : m.extractLsb' start len = BitVec.allOnes len) :
    w.extractLsb' start len = v.extractLsb' start len := by
  have hslice := congrArg (BitVec.extractLsb' start len) h
  rwa [BitVec.extractLsb'_and, BitVec.extractLsb'_and, hm, BitVec.and_allOnes, BitVec.and_allOnes]
    at hslice

/-- Every mask of the opcode map takes in the class (R50, R51). -/
theorem classOf_eq_of_row_mask {r : Row} {w v : Word} (hr : r ∈ opcodeMap)
    (h : w &&& r.mask = v &&& r.mask) : classOf w = classOf v :=
  have hmask : ∀ r ∈ opcodeMap, r.mask.extractLsb' 12 4 = BitVec.allOnes 4 := by decide
  extractLsb'_eq_of_mask h (hmask r hr)

theorem lowNibble_eq_of_mask {w v : Word} (h : w &&& 0xF00F#16 = v &&& 0xF00F#16) :
    lowNibble w = lowNibble v :=
  extractLsb'_eq_of_mask h rfl

theorem fieldNN_eq_of_mask {w v : Word} (h : w &&& 0xF0FF#16 = v &&& 0xF0FF#16) :
    fieldNN w = fieldNN v :=
  extractLsb'_eq_of_mask h rfl

/-! ### A word that selects a row decodes -/

/-- A word that selects the row of an instruction decodes to an instruction of that row: it has the
class of the row, and the low nibble or low byte where the mask takes it in. -/
theorem decodeWord_of_rowOf_selects {g : Bool} {w : Word} {ins : Instr}
    (h : (rowOf ins).selects g w = true) :
    ∃ j, decodeWord g w = .instr j ∧ rowOf j = rowOf ins := by
  obtain ⟨hwf, hw⟩ := rowOf_selects_iff.mp h
  have hc : classOf w = classOf (encode ins) :=
    classOf_eq_of_row_mask (rowOf_mem_opcodeMap ins) hw
  have hg (hgap : ins.isGap = true) : g = true := by simpa [Instr.wellFormed, hgap] using hwf
  cases ins with
  | cls | ret =>
    obtain rfl : w = _ := (BitVec.and_allOnes (x := w)).symm.trans hw
    exact ⟨_, rfl, rfl⟩
  | jp | call | ldI | seImm | sneImm | ldImm | addImm | drw =>
    simp [decodeWord, hc, encode, rowOf]
  | jpV0 | rnd => simp [decodeWord, hc, encode, gapped, hg rfl, rowOf]
  | seReg | ldReg | andReg | xorReg | addReg | subReg | shr =>
    simp [decodeWord, decodeClass5, decodeClass8, hc, lowNibble_eq_of_mask hw, encode, rowOf]
  | orReg | subnReg | shl | sneReg =>
    simp [decodeWord, decodeClass8, decodeClass9, hc, lowNibble_eq_of_mask hw, encode, gapped,
      hg rfl, rowOf]
  | skp | sknp | ldVxDt | ldDtVx | ldStVx | addI | ldVxMem =>
    simp [decodeWord, decodeClassE, decodeClassF, hc, fieldNN_eq_of_mask hw, encode, rowOf]
  | ldVxK | ldFVx | ldBVx | ldMemVx =>
    simp [decodeWord, decodeClassF, hc, fieldNN_eq_of_mask hw, encode, gapped, hg rfl, rowOf]

/-- A word that selects a row of the opcode map decodes to an instruction of that row. -/
theorem decodeWord_of_selects {g : Bool} {w : Word} {r : Row} (hr : r ∈ opcodeMap)
    (h : r.selects g w = true) : ∃ ins, decodeWord g w = .instr ins ∧ rowOf ins = r := by
  rw [opcodeMap_eq_map_rowOf] at hr
  obtain ⟨ins, -, rfl⟩ := List.mem_map.mp hr
  exact decodeWord_of_rowOf_selects h

/-- The row of what a word decodes to selects the word. -/
theorem rowOf_selects_of_decodeWord {g : Bool} {w : Word} {ins : Instr}
    (h : decodeWord g w = .instr ins) : (rowOf ins).selects g w = true := by
  obtain ⟨rfl, hwf⟩ := decodeWord_eq_instr_iff.mp h
  exact rowOf_selects_iff.mpr ⟨hwf, rfl⟩

/-- Settles O3: a row that selects a word is the row of what the word decodes to, so it is the only
one. -/
theorem decodeFollowsOpcodeMap : Obligations.DecodeFollowsOpcodeMap := by
  intro g w
  refine ⟨⟨?_, ?_⟩, fun ins => rowOf_selects_of_decodeWord, ?_⟩
  · rintro ⟨ins, h⟩
    exact ⟨rowOf ins, rowOf_mem_opcodeMap ins, rowOf_selects_of_decodeWord h⟩
  · rintro ⟨r, hr, h⟩
    obtain ⟨ins, hdec, -⟩ := decodeWord_of_selects hr h
    exact ⟨ins, hdec⟩
  · intro r q hr hq hrw hqw
    obtain ⟨i, hi, rfl⟩ := decodeWord_of_selects hr hrw
    obtain ⟨j, hj, rfl⟩ := decodeWord_of_selects hq hqw
    rw [Decoded.instr.inj (hi.symm.trans hj)]

end Sys2Proof
end

/-! ## The words that decode to nothing -/

section
namespace Sys2Proof

/-! ### What each dispatch level refuses -/

section levels
variable {w : Word}

theorem decodeClass0_eq_unknown_iff :
    decodeClass0 w = .unknown w ↔ w ≠ 0x00E0#16 ∧ w ≠ 0x00EE#16 := by
  unfold decodeClass0
  split
  next hw => simp [hw]
  next hw => split <;> simp [*]

theorem decodeClass5_eq_unknown_iff : decodeClass5 w = .unknown w ↔ lowNibble w ≠ 0x0#4 := by
  unfold decodeClass5
  split <;> simp [*]

/-- The low nibbles of R52's row for class 8 are those without a pattern. -/
theorem unlisted_lowNibble_iff : ∀ n : BitVec 4,
    n ∈ [0x8#4, 0x9#4, 0xA#4, 0xB#4, 0xC#4, 0xD#4, 0xF#4] ↔
      n ∉ [0x0#4, 0x1#4, 0x2#4, 0x3#4, 0x4#4, 0x5#4, 0x6#4, 0x7#4, 0xE#4] := by
  decide

theorem decodeClass8_eq_unknown_iff : decodeClass8 true w = .unknown w ↔
    lowNibble w ∈ [0x8#4, 0x9#4, 0xA#4, 0xB#4, 0xC#4, 0xD#4, 0xF#4] := by
  rw [unlisted_lowNibble_iff]
  unfold decodeClass8
  split <;> simp_all [gapped]

theorem decodeClass9_eq_unknown_iff : decodeClass9 true w = .unknown w ↔ lowNibble w ≠ 0x0#4 := by
  unfold decodeClass9
  split <;> simp [*, gapped]

theorem decodeClassE_eq_unknown_iff :
    decodeClassE w = .unknown w ↔ fieldNN w ∉ [0x9E#8, 0xA1#8] := by
  unfold decodeClassE
  split <;> simp_all

theorem decodeClassF_eq_unknown_iff : decodeClassF true w = .unknown w ↔
    fieldNN w ∉ [0x07#8, 0x0A#8, 0x15#8, 0x18#8, 0x1E#8, 0x29#8, 0x33#8, 0x55#8, 0x65#8] := by
  unfold decodeClassF
  split <;> simp_all [gapped]

end levels

/-- The dispatch on the class leaves out none. -/
theorem mem_classes : ∀ c : BitVec 4,
    c ∈ [0x0#4, 0x1#4, 0x2#4, 0x3#4, 0x4#4, 0x5#4, 0x6#4, 0x7#4, 0x8#4, 0x9#4, 0xA#4,
      0xB#4, 0xC#4, 0xD#4, 0xE#4, 0xF#4] := by
  decide

/-- Settles O4: six classes have words without a pattern, and their dispatch levels say which; in
the others every word has one. -/
theorem unknownWordsAreThoseListed : Obligations.UnknownWordsAreThoseListed := by
  intro w
  unfold decodeWord
  split
  case h_1 hc => simp [hc, decodeClass0_eq_unknown_iff]
  case h_6 hc => simp [hc, decodeClass5_eq_unknown_iff]
  case h_9 hc => simp [hc, decodeClass8_eq_unknown_iff]
  case h_10 hc => simp [hc, decodeClass9_eq_unknown_iff]
  case h_15 hc => simp [hc, decodeClassE_eq_unknown_iff]
  case h_16 hc => simp [hc, decodeClassF_eq_unknown_iff]
  case h_17 => exact absurd (mem_classes (classOf w)) (by simp_all)
  all_goals simp [*, gapped]

end Sys2Proof
end

/-! ## What a cycle answers -/

section
namespace Sys2Proof.Machine

/-! ### The rules of a cycle (40_cycle.md R67) -/

theorem cycle_of_ended {c : Config} {s t : State} (h : fetch c s = .ended t) : cycle c s = .next t := by
  simp only [cycle, h]

theorem cycle_fetchOutOfBounds {c : Config} {s : State} (hr : s.runState = .running)
    (hp : 4094 < s.pc.toNat) : cycle c s =
      .next ((s.raise (.fetchOutOfBounds s.pc)).report (.fatal (.fetchOutOfBounds s.pc)) false) :=
  cycle_of_ended ((fetch_eq_ended c s _).mpr (.inr (.inl ⟨hr, hp, rfl⟩)))

theorem cycle_unknown {c : Config} {s : State} {w : Word} (hr : s.runState = .running)
    (hp : s.pc.toNat ≤ 4094) (hdec : decodeWord c.gapFill s.fetchWord = .unknown w) :
    cycle c s = .next (s.report (.unknownOpcode s.pc w) false) :=
  cycle_of_ended ((fetch_eq_ended c s _).mpr (.inr (.inr ⟨hr, hp, w, hdec, rfl⟩)))

/-- A running core whose word at `pc` decodes executes the instruction and completes the cycle. -/
theorem cycle_of_instr {c : Config} {s t : State} {ins : Instr} (hr : s.runState = .running)
    (hp : s.pc.toNat ≤ 4094) (hdec : decodeWord c.gapFill s.fetchWord = .instr ins)
    (hexec : exec ins s = .next t) : cycle c s = .next (complete c t) := by
  simp only [cycle, (fetch_eq_run c s ins).mpr ⟨hr, hp, hdec⟩, hexec]

/-- An execute step leaves the core running, or raises a fault whose condition holds and does nothing
else. -/
theorem Effect.runs_or_raises {s t : State} {ins : Instr} (heff : Effect s ins t) :
    t.runState = s.runState ∨ ∃ c, CauseShown s c ∧ t = s.raise c := by
  cases heff with
  | regs | control | index | store | cls | drw | delay | sound | rnd => exact .inl rfl
  | ret a hpop => obtain ⟨⟨_, rfl⟩, -⟩ := State.pop_frame hpop; exact .inl rfl
  | call nnn hpush => obtain ⟨_, _, rfl⟩ := State.push_frame hpush; exact .inl rfl
  | fault c hc => exact .inr ⟨c, hc, rfl⟩

/-! ### Frames -/

theorem KeepsAllBut.mono {ps qs : List Part} {s t : State} (h : KeepsAllBut ps s t) (hsub : ps ⊆ qs) :
    KeepsAllBut qs s t :=
  fun p hp => h p fun hmem => hp (hsub hmem)

theorem KeepsAllBut.trans {ps : List Part} {s t u : State} (hst : KeepsAllBut ps s t)
    (htu : KeepsAllBut ps t u) : KeepsAllBut ps s u := by
  intro p hp
  have hs := hst p hp
  have ht := htu p hp
  cases p with
  | mem | v => exact fun k => (ht k).trans (hs k)
  | i | pc | stack | sp | dt | st | key | fb | redraw | runState | outcome | tone | draws
  | romLoaded => exact Eq.trans ht hs

theorem keepsAllBut_refl (ps : List Part) (s : State) : KeepsAllBut ps s s := by
  intro p _
  cases p with
  | mem | v => exact fun _ => rfl
  | i | pc | stack | sp | dt | st | key | fb | redraw | runState | outcome | tone | draws
  | romLoaded => rfl

theorem keepsAllBut_tick (s : State) : KeepsAllBut [.dt, .st] s s.tick := by
  intro p hp
  cases p with
  | dt | st => simp at hp
  | mem | v => exact fun _ => rfl
  | i | pc | stack | sp | key | fb | redraw | runState | outcome | tone | draws | romLoaded => rfl

theorem keepsAllBut_tick_report (s : State) (o : CycleOutcome) (b : Bool) :
    KeepsAllBut [.dt, .st, .outcome, .tone] s (s.tick.report o b) :=
  ((keepsAllBut_tick s).mono (by decide)).trans ((keepsAllBut_report s.tick o b).mono (by decide))

theorem keepsAllBut_raise_report (s : State) (c : Cause) (o : CycleOutcome) (b : Bool) :
    KeepsAllBut [.runState, .outcome, .tone] s ((s.raise c).report o b) :=
  ((haltsWith_raise s c).2.mono (by decide)).trans
    ((keepsAllBut_report (s.raise c) o b).mono (by decide))

/-! ### The end of a cycle -/

/-- The tone sounds where the tick takes `ST` from 1 (R151). -/
theorem State.tickTone_iff (s : State) : s.tickTone = true ↔ s.st.toNat = 1 := by
  simp [State.tickTone, ← BitVec.toNat_inj]

/-- The end of a cycle ticks a core that still runs, and reports `Ok` (R65, R151). -/
theorem complete_of_running {s : State} (hr : s.runState = .running) :
    (complete config s).dt.toNat = s.dt.toNat - 1 ∧ (complete config s).st.toNat = s.st.toNat - 1 ∧
      (complete config s).outcome = some .ok ∧
      ((complete config s).tone = true ↔ s.st.toNat = 1) ∧
      KeepsAllBut [.dt, .st, .outcome, .tone] s (complete config s) := by
  rw [complete_running_perCycle config s hr rfl]
  exact ⟨countDown_toNat s.dt, countDown_toNat s.st, rfl, s.tickTone_iff,
    keepsAllBut_tick_report s _ _⟩

/-! ### What a cycle answers, and its outcome -/

/-- Settles O13: a cycle that does not end at its fetch completes the execute step, which always
answers. -/
theorem cycleAlwaysAnswers : Obligations.CycleAlwaysAnswers := by
  intro c s
  cases hf : fetch c s with
  | ended t =>
    obtain ⟨r, o, b, rfl, -⟩ := fetch_ended_keeps hf
    exact ⟨_, o, cycle_of_ended hf, rfl⟩
  | run ins =>
    obtain ⟨hr, hp, hdec⟩ := (fetch_eq_run c s ins).mp hf
    obtain ⟨u, hexec, -⟩ := exec_answers ins s
    obtain ⟨dt, st, o, b, he⟩ := complete_keeps c u
    exact ⟨_, o, cycle_of_instr hr hp hdec hexec, by rw [he]⟩

/-- Settles O7: the two bytes make up the word fetched, and the end of the cycle ticks a core that
still runs and reports the fault of one that does not. -/
theorem stepRunsDecodedInstruction : Obligations.StepRunsDecodedInstruction := by
  intro s ins hr hp hdecode
  obtain ⟨hi, lo, hbytes, hdec⟩ := eq_of_decode_eq_ok hdecode
  cases hbytes
  obtain ⟨t, hexec, -⟩ := exec_answers ins s
  refine ⟨t, complete config t, hexec, cycle_of_instr hr hp hdec hexec, complete_of_running,
    fun c hc => ?_⟩
  rw [complete_halted config t c hc]
  exact ⟨rfl, rfl, keepsAllBut_report t _ _⟩

/-- Settles O8: the fault of the fetch is a rule of the cycle, and at a `pc` inside memory no fault
that an instruction raises is one of the fetch. -/
theorem fetchReadsBigEndianOrFaults : Obligations.FetchReadsBigEndianOrFaults := by
  intro s hr
  refine ⟨fun hp => ⟨_, cycle_fetchOutOfBounds hr hp, rfl, rfl, rfl, keepsAllBut_raise_report s _ _ _⟩,
    fun hp => ⟨toNat_wordOfBytes _ _, fun t p hstep hhalt => ?_⟩⟩
  obtain hend | ⟨ins, u, -, heff, rfl⟩ := cycle_effect hstep
  · obtain ⟨c, hc, -⟩ | ⟨-, hgt, -⟩ | ⟨-, -, w, -, rfl⟩ := (fetch_eq_ended _ s t).mp hend
    · exact nomatch hr.symm.trans hc
    · omega
    · exact nomatch hr.symm.trans hhalt
  · obtain ⟨dt, st, o, b, he⟩ := complete_keeps config u
    rw [he] at hhalt
    obtain hrun | ⟨c, hshown, rfl⟩ := heff.runs_or_raises
    · exact nomatch (hrun.trans hr).symm.trans hhalt
    · cases hhalt
      obtain ⟨rfl, hgt⟩ := hshown
      omega

/-- Every cycle at an unknown word reports the same, so any number of them comes to one report. -/
theorem core_run_unknown (n : Nat) {s : State} {w : Word} (hr : s.runState = .running)
    (hp : s.pc.toNat ≤ 4094) (hdec : decodeWord gapFillTaken s.fetchWord = .unknown w) :
    Sys2Proof.core.run (n + 1) s = .next (s.report (.unknownOpcode s.pc w) false) := by
  induction n generalizing s with
  | zero => exact core_run_succ 0 s _ (cycle_unknown hr hp hdec)
  | succ n ih => exact (core_run_succ (n + 1) s _ (cycle_unknown hr hp hdec)).trans (ih hr hp hdec)

/-- Settles O9: the report of the first cycle leaves everything that the next one reads. -/
theorem unknownOpcodeReportsForEver : Obligations.UnknownOpcodeReportsForEver :=
  fun n s _ hr hp hdec => ⟨_, core_run_unknown n hr hp hdec, rfl, eq_of_decodeWord_unknown hdec, rfl,
    keepsAllBut_report s _ _⟩

/-- Settles O14: each case has its rule of the cycle, and an executed instruction either leaves the
core running or raises. -/
theorem outcomeFollowsPriority : Obligations.OutcomeFollowsPriority := by
  intro s t hstep
  refine ⟨fun c hc => ?_, fun hr hp => ?_, fun w hr hp hdec => ?_, fun ins hr hp hdec => ?_⟩
  · cases (cycle_halted hc).symm.trans hstep
    rfl
  · cases (cycle_fetchOutOfBounds hr hp).symm.trans hstep
    rfl
  · cases (cycle_unknown hr hp hdec).symm.trans hstep
    rfl
  · obtain ⟨u, hexec, heff⟩ := exec_answers ins s
    cases (cycle_of_instr hr hp hdec hexec).symm.trans hstep
    obtain hrun | ⟨c, -, rfl⟩ := heff.runs_or_raises
    · obtain ⟨-, -, hok, -, hkeep⟩ := complete_of_running (hrun.trans hr)
      exact .inl ⟨hok, (hkeep .runState (by decide)).trans (hrun.trans hr)⟩
    · rw [complete_halted config _ c rfl]
      exact .inr ⟨c, rfl, rfl⟩

/-! ### The timers -/

/-- Settles O15: the tick counts down what the instruction left in the timers, and only `FX15` and
`FX18` write them. -/
theorem timersTickOncePerOkCycle : Obligations.TimersTickOncePerOkCycle := by
  intro s t ins hr hp hdec hstep hok
  obtain ⟨u, hexec, heff⟩ := exec_answers ins s
  obtain ⟨-, -, -, hdt, hst, -⟩ := specialStateChangesOnlyByItsWriters ins s u hexec
  cases (cycle_of_instr hr hp hdec hexec).symm.trans hstep
  obtain hrun | ⟨c, -, rfl⟩ := heff.runs_or_raises
  · obtain ⟨hdelay, hsound, -, htone, -⟩ := complete_of_running (hrun.trans hr)
    refine ⟨?_, fun hne => ?_, ?_, fun hne => ?_⟩
    · rintro x rfl
      cases hexec
      exact hdelay
    · have hsame : u.dt = s.dt := by_contra fun h => (hdt h).elim hne
      rwa [← hsame]
    · rintro x rfl
      cases hexec
      exact ⟨hsound, htone⟩
    · have hsame : u.st = s.st := by_contra fun h => (hst h).elim hne
      rw [← hsame]
      exact ⟨hsound, htone⟩
  · rw [complete_halted config _ c rfl] at hok
    cases hok

/-! ### A jump to itself -/

/-- An immediate address is widened without a change of value (R48). -/
theorem toNat_zext16 (nnn : Addr) : (zext16 nnn).toNat = nnn.toNat :=
  BitVec.toNat_setWidth_of_le (by decide)

/-- A jump to its own address does nothing but the tick. -/
theorem step_selfJump {s : State} {nnn : Addr} (hr : s.runState = .running) (hp : s.pc.toNat ≤ 4094)
    (hself : s.pc.toNat = nnn.toNat) (hdec : decodeWord gapFillTaken s.fetchWord = .instr (.jp nnn)) :
    step s = .next (s.tick.report .ok s.tickTone) := by
  have hpc : zext16 nnn = s.pc := BitVec.eq_of_toNat_eq (by rw [hself, toNat_zext16])
  have hexec : exec (.jp nnn) s = .next s := by
    show Host.Outcome.next (s.setPc (zext16 nnn)) = .next s
    rw [hpc]
    rfl
  rw [← complete_running_perCycle config s hr rfl]
  exact cycle_of_instr hr hp hdec hexec

/-- Settles O16, by induction on the number of cycles: each is one tick. -/
theorem selfJumpSpinsWhileTimersRun : Obligations.SelfJumpSpinsWhileTimersRun := by
  intro n
  induction n with
  | zero => exact fun s _ _ _ _ _ => ⟨s, rfl, rfl, rfl, keepsAllBut_refl _ s⟩
  | succ n ih =>
    intro s nnn hr hp hself hdec
    obtain ⟨t, hrun, hdt, hst, hkeep⟩ := ih (s.tick.report .ok s.tickTone) nnn hr hp hself hdec
    refine ⟨t, (core_run_succ n s _ (step_selfJump hr hp hself hdec)).trans hrun, ?_, ?_,
      (keepsAllBut_tick_report s _ _).trans hkeep⟩
    · rw [hdt, State.report_dt, State.tick_dt, countDown_toNat]
      omega
    · rw [hst, State.report_st, State.tick_st, countDown_toNat]
      omega

end Sys2Proof.Machine
end

/-! ## The program counter -/

section
namespace Sys2Proof.Machine

/-! ### What an execute step that does not halt has done -/

/-- A block access that does not halt has run its action. -/
theorem eq_of_withBlock_eq_next {s t : State} {len : Nat} {act : State → State}
    (h : withBlock s len act = .next t) (hrun : t.runState = .running) : t = act s := by
  obtain ⟨-, he⟩ | ⟨-, he⟩ := withBlock_cases s len act
  · exact (Host.Outcome.next.inj (he.symm.trans h)).symm
  · cases he.symm.trans h
    cases hrun

/-- A key access that does not halt has run its action on the key that `V[X]` numbers. -/
theorem eq_of_withKey_eq_next {s t : State} {x : Reg} {act : Key → State} {k : Key}
    (h : withKey s x act = .next t) (hrun : t.runState = .running) (hk : (s.reg x).toNat = k.val) :
    t = act k := by
  obtain ⟨hlt, he⟩ | ⟨-, he⟩ := withKey_cases s x act
  · obtain rfl : ⟨_, hlt⟩ = k := Fin.ext hk
    exact (Host.Outcome.next.inj (he.symm.trans h)).symm
  · cases he.symm.trans h
    cases hrun

/-! ### `pc` after the operations the instructions share -/

theorem State.skipIf_pc_of_iff (s : State) {c : Bool} {p : Prop} [Decidable p] (h : c = true ↔ p) :
    (s.skipIf c).pc = if p then s.pc + 4 else s.pc + 2 := by
  simp only [State.skipIf_pc, h]

theorem State.loadRegs_pc (s : State) (base : Nat) (js : List Reg) : (s.loadRegs base js).pc = s.pc := by
  obtain ⟨v, hv⟩ := s.loadRegs_eq base js
  rw [hv]

/-- A block access that does not halt leaves `pc` where its action does. -/
theorem withBlock_pc {s t : State} {len : Nat} {act : State → State} {p : Word}
    (h : withBlock s len act = .next t) (hrun : t.runState = .running) (hact : (act s).pc = p) :
    t.pc = p :=
  eq_of_withBlock_eq_next h hrun ▸ hact

/-- `BNNN` adds without a carry out of `pc` (R115). -/
theorem toNat_zext16_add (nnn : Addr) (b : Byte) :
    (zext16 nnn + b.setWidth 16).toNat = nnn.toNat + b.toNat := by
  have hn := nnn.isLt
  have hb := b.isLt
  rw [BitVec.toNat_add, toNat_zext16, BitVec.toNat_setWidth]
  omega

/-! ### The call stack and the wait for a key -/

theorem pop_of_execRet_eq_next {s t : State} (h : execRet s = .next t) (hrun : t.runState = .running) :
    ∃ a u, s.pop = some (a, u) ∧ t = u.setPc a := by
  unfold execRet at h
  cases hpop : s.pop with
  | none =>
    rw [hpop] at h
    cases h
    cases hrun
  | some au =>
    rw [hpop] at h
    cases h
    exact ⟨au.1, au.2, rfl, rfl⟩

theorem push_of_execCall_eq_next {nnn : Addr} {s t : State} (h : execCall nnn s = .next t)
    (hrun : t.runState = .running) :
    ∃ u, s.push (s.pc + 2) = some u ∧ t = u.setPc (zext16 nnn) := by
  unfold execCall at h
  cases hpush : s.push (s.pc + 2) with
  | none =>
    rw [hpush] at h
    cases h
    cases hrun
  | some u =>
    rw [hpush] at h
    cases h
    exact ⟨u, rfl, rfl⟩

/-- A push puts its address at the old `sp`. -/
theorem State.push_top {s u : State} {a : Word} (h : s.push a = some u) {k : Fin 16}
    (hk : s.sp.val = k.val) : u.stack[k] = a ∧ u.sp.val = k.val + 1 := by
  obtain ⟨-, rfl⟩ := (s.push_eq_some a u).mp h
  simp [hk]

/-- A pop gives the entry below the old `sp`. -/
theorem State.pop_top {s u : State} {a : Word} (h : s.pop = some (a, u)) {k : Fin 16}
    (hk : s.sp.val = k.val + 1) : a = s.stack[k] := by
  obtain ⟨-, rfl, -⟩ := (s.pop_eq_some a u).mp h
  simp [hk]

/-- `FX0A` advances exactly where a key is down (R117). -/
theorem execLdVxK_pc {x : Reg} {s t : State} (h : execLdVxK x s = .next t) :
    t.pc = if ∃ k, s.pressed k = true then s.pc + 2 else s.pc := by
  unfold execLdVxK at h
  cases hkey : s.lowestKey with
  | none =>
    rw [hkey] at h
    cases h
    have hup := s.lowestKey_eq_none.mp hkey
    simp [hup]
  | some k =>
    rw [hkey] at h
    cases h
    have hdown : ∃ k, s.pressed k = true := ⟨k, ((s.lowestKey_eq_some k).mp hkey).1⟩
    rw [if_pos hdown]
    rfl

/-! ### The table of R64 -/

/-- Settles O17: a fault changes `run_state` only; each instruction that does not fault has its
operation on `pc`; and a cycle that is not `Ok` ends at its fetch or in a fault. -/
theorem programCounterTable : Obligations.ProgramCounterTable := by
  refine ⟨fun ins s t hr hexec => ⟨fun hhalt => ?_, fun hrun => ?_⟩, fun s t hstep hno => ?_⟩
  · obtain hsame | ⟨c, -, rfl⟩ := (exec_effect hexec).runs_or_raises
    · exact absurd (hsame.trans hr) hhalt
    · rfl
  · cases ins with
    | jp nnn => cases hexec; exact toNat_zext16 nnn
    | jpV0 nnn => cases hexec; exact toNat_zext16_add nnn _
    | call nnn =>
      obtain ⟨u, hpush, rfl⟩ := push_of_execCall_eq_next hexec hrun
      exact ⟨toNat_zext16 nnn, fun k hk => State.push_top hpush hk⟩
    | ret =>
      obtain ⟨a, u, hpop, rfl⟩ := pop_of_execRet_eq_next hexec hrun
      exact fun k hk => State.pop_top hpop hk
    | seImm | sneImm | seReg | sneReg => cases hexec; exact s.skipIf_pc_of_iff (by simp)
    | skp x =>
      intro k hk
      rw [eq_of_withKey_eq_next hexec hrun hk]
      exact s.skipIf_pc_of_iff Iff.rfl
    | sknp x =>
      intro k hk
      rw [eq_of_withKey_eq_next hexec hrun hk]
      exact s.skipIf_pc_of_iff (by simp)
    | ldVxK x => exact execLdVxK_pc hexec
    | drw => unfold exec execDrw at hexec; exact withBlock_pc hexec hrun rfl
    | ldBVx => unfold exec execLdBVx at hexec; exact withBlock_pc hexec hrun rfl
    | ldMemVx => unfold exec execLdMemVx at hexec; exact withBlock_pc hexec hrun rfl
    | ldVxMem =>
      unfold exec execLdVxMem at hexec
      exact withBlock_pc hexec hrun (congrArg (· + 2) (s.loadRegs_pc _ _))
    | cls | ldImm | addImm | ldReg | orReg | andReg | xorReg | addReg | subReg | shr | subnReg | shl
    | ldI | rnd | ldVxDt | ldDtVx | ldStVx | addI | ldFVx => cases hexec; rfl
  · obtain hend | ⟨ins, u, ⟨hr, -, -⟩, heff, rfl⟩ := cycle_effect hstep
    · obtain ⟨r, o, b, rfl, -⟩ := fetch_ended_keeps hend
      rfl
    · obtain hsame | ⟨c, -, rfl⟩ := heff.runs_or_raises
      · exact absurd (complete_outcome_of_running config (hsame.trans hr)) hno
      · rw [complete_halted config _ c rfl]
        rfl

end Sys2Proof.Machine
end

/-! ## Control flow: jumps, calls, returns and skips -/

section
namespace Sys2Proof.Machine

/-! ### What control flow leaves unchanged -/

/-- A listed part that is the same after all need not be listed. -/
theorem KeepsAllBut.of_cons {p : Part} {ps : List Part} {s t : State} (h : KeepsAllBut (p :: ps) s t)
    (hsame : p.Same s t) : KeepsAllBut ps s t := by
  intro q hq
  by_cases hqp : q = p
  · exact hqp ▸ hsame
  · exact h q (List.not_mem_cons_of_ne_of_not_mem hqp hq)

/-- The parts that control flow may write: the stack, `sp` and `pc`. -/
theorem keepsAllBut_stack_sp_pc (s : State) (stack : Vector Word 16) (sp : Fin 17) (pc : Word) :
    KeepsAllBut [.stack, .sp, .pc] s { s with stack := stack, sp := sp, pc := pc } := by
  intro p hp
  cases p with
  | stack | sp | pc => simp at hp
  | mem | v => exact fun _ => rfl
  | i | dt | st | key | fb | redraw | runState | outcome | tone | draws | romLoaded => rfl

theorem keepsAllBut_setPc (s : State) (p : Word) : KeepsAllBut [.pc] s (s.setPc p) :=
  ((keepsAllBut_stack_sp_pc s s.stack s.sp p).of_cons rfl).of_cons rfl

/-- A skip on `c` writes `pc` only, whichever way the condition is spelt. -/
theorem changesPcTo_skipIf (s : State) {c : Bool} {p : Prop} [Decidable p] (h : c = true ↔ p) :
    ChangesPcTo (if p then s.pc + 4 else s.pc + 2) s (s.skipIf c) :=
  ⟨s.skipIf_pc_of_iff h, keepsAllBut_setPc s _⟩

/-! ### Call and return at a given depth (R70, R72) -/

/-- With `k + 1` live entries a pop gives entry `k`. -/
theorem State.pop_of_sp_eq {s : State} {k : Fin 16} (hk : s.sp.val = k.val + 1) :
    s.pop = some (s.stack[k], { s with sp := k.castSucc }) := by
  have hpred : k.castSucc = ⟨s.sp.val - 1, by omega⟩ := Fin.ext (by simp [hk])
  exact (s.pop_eq_some _ _).mpr ⟨by omega, by simp [hk], by rw [hpred]⟩

/-- With `k` live entries, fewer than 16, a push writes entry `k`. -/
theorem State.push_of_sp_eq {s : State} {k : Fin 16} (a : Word) (hk : s.sp.val = k.val) :
    s.push a = some { s with stack := s.stack.set k.val a, sp := k.succ } := by
  have hsucc : k.succ = ⟨s.sp.val + 1, by omega⟩ := Fin.ext (by simp [hk])
  exact (s.push_eq_some a _).mpr ⟨by omega, by simp [hsucc, hk]⟩

/-- `00EE` on a stack that is not empty: the entry stays where it is. -/
theorem exec_ret_of_sp_eq {s : State} {k : Fin 16} (hk : s.sp.val = k.val + 1) :
    exec .ret s = .next { s with sp := k.castSucc, pc := s.stack[k] } := by
  simp only [exec, execRet, State.pop_of_sp_eq hk, State.setPc]

/-- `00EE` on the empty stack (R140). -/
theorem exec_ret_empty {s : State} (h : s.sp.val = 0) :
    exec .ret s = .next (s.raise .stackUnderflow) := by
  simp only [exec, execRet, s.pop_eq_none.mpr h]

/-- `2NNN` below 16 entries, with the whole next state written out. -/
theorem exec_call_of_sp_eq (nnn : Addr) {s : State} {k : Fin 16} (hk : s.sp.val = k.val) :
    exec (.call nnn) s =
      .next { s with stack := s.stack.set k.val (s.pc + 2), sp := k.succ, pc := zext16 nnn } := by
  simp only [exec, execCall, State.push_of_sp_eq _ hk, State.setPc]

/-! ### The obligations -/

/-- Settles O29: with `k + 1` entries the return takes entry `k`, and with none it raises. -/
theorem returnPopsOrUnderflows : Obligations.ReturnPopsOrUnderflows := by
  refine fun s => ⟨fun k hk => ⟨_, exec_ret_of_sp_eq hk, rfl, rfl, ?_⟩,
    fun hempty => ⟨_, exec_ret_empty hempty, haltsWith_raise s _⟩⟩
  exact (keepsAllBut_stack_sp_pc s s.stack _ _).of_cons rfl

/-- Settles O30: the jump is one write of `pc`. -/
theorem jumpSetsProgramCounter : Obligations.JumpSetsProgramCounter :=
  fun nnn s => ⟨_, rfl, toNat_zext16 nnn, keepsAllBut_setPc s _⟩

/-- Settles O31: below 16 entries the call writes entry `k` alone, and on the full stack it raises. -/
theorem callPushesOrOverflows : Obligations.CallPushesOrOverflows := by
  refine fun nnn s => ⟨fun k hk => ⟨_, exec_call_of_sp_eq nnn hk, ?_, fun j hj => ?_, rfl,
      toNat_zext16 nnn, keepsAllBut_stack_sp_pc s _ _ _⟩,
    fun hfull => ⟨_, exec_call_full nnn hfull, haltsWith_raise s _⟩⟩
  · exact Vector.getElem_set_self k.isLt
  · exact Vector.getElem_set_ne k.isLt j.isLt (Fin.val_ne_of_ne hj.symm)

/-- Settles O32: each is a skip, on a comparison of bytes that is one of their values. -/
theorem skipsOnRegisterComparison : Obligations.SkipsOnRegisterComparison := by
  have heq (a b : Byte) : (a == b) = true ↔ a.toNat = b.toNat :=
    beq_iff_eq.trans BitVec.toNat_inj.symm
  have hne (a b : Byte) : (a != b) = true ↔ a.toNat ≠ b.toNat :=
    bne_iff_ne.trans BitVec.toNat_inj.symm.not
  exact fun x y nn s => ⟨⟨_, rfl, changesPcTo_skipIf s (heq _ _)⟩,
    ⟨_, rfl, changesPcTo_skipIf s (hne _ _)⟩, ⟨_, rfl, changesPcTo_skipIf s (heq _ _)⟩⟩

/-- Settles O34: the call leaves `pc + 2` as the top entry (O31), the return takes the top entry (O29),
and `sp` is back where it was. -/
theorem callThenReturnComesBack : Obligations.CallThenReturnComesBack := by
  intro nnn s hlt
  obtain ⟨t, hcall, htop, -, hspt, -, hkeept⟩ := (callPushesOrOverflows nnn s).1 ⟨s.sp.val, hlt⟩ rfl
  obtain ⟨u, hret, hspu, hpcu, hkeepu⟩ := (returnPopsOrUnderflows t).1 ⟨s.sp.val, hlt⟩ hspt
  have hkeep : KeepsAllBut [.sp, .pc, .stack] s u :=
    (hkeept.mono (by decide)).trans (hkeepu.mono (by decide))
  exact ⟨t, u, hcall, hret, hpcu.trans htop, hkeep.of_cons (Fin.ext hspu)⟩

end Sys2Proof.Machine
end

/-! ## Register load and ALU -/

section
namespace Sys2Proof.Machine

/-! ### What register writes leave unchanged -/

theorem keepsAllBut_setReg (s : State) (x : Reg) (b : Byte) : KeepsAllBut [.v] s (s.setReg x b) := by
  intro p hp
  cases p with
  | v => simp at hp
  | mem => exact fun _ => rfl
  | i | pc | stack | sp | dt | st | key | fb | redraw | runState | outcome | tone | draws
  | romLoaded => rfl

theorem keepsRegsBut_setReg {dest : Reg → Prop} (s : State) {x : Reg} (b : Byte) (hx : dest x) :
    KeepsRegsBut dest s (s.setReg x b) :=
  fun q hq => s.reg_setReg_other x q b fun e => hq (e ▸ hx)

theorem KeepsRegsBut.trans {dest : Reg → Prop} {s t u : State} (hst : KeepsRegsBut dest s t)
    (htu : KeepsRegsBut dest t u) : KeepsRegsBut dest s u :=
  fun q hq => (htu q hq).trans (hst q hq)

/-- The advance after register writes moves `pc` from where it was before them. -/
theorem advancesWritingRegs_advance {dest : Reg → Prop} {s t : State} (hregs : KeepsRegsBut dest s t)
    (hkeep : KeepsAllBut [.v] s t) : AdvancesWritingRegs dest s t.advance := by
  have hpc : t.pc = s.pc := hkeep .pc (by decide)
  exact ⟨hregs, congrArg (· + 2) hpc,
    (hkeep.mono (by decide)).trans ((keepsAllBut_setPc t _).mono (by decide))⟩

theorem advancesWritingRegs_setReg (s : State) (x : Reg) (b : Byte) :
    AdvancesWritingRegs (· = x) s (s.setReg x b).advance :=
  advancesWritingRegs_advance (keepsRegsBut_setReg s b rfl) (keepsAllBut_setReg s x b)

theorem advancesWritingRegs_setReg_setReg {dest : Reg → Prop} (s : State) {x y : Reg} (a b : Byte)
    (hx : dest x) (hy : dest y) : AdvancesWritingRegs dest s ((s.setReg x a).setReg y b).advance :=
  advancesWritingRegs_advance
    ((keepsRegsBut_setReg s a hx).trans (keepsRegsBut_setReg _ b hy))
    ((keepsAllBut_setReg s x a).trans (keepsAllBut_setReg _ y b))

/-! ### Results with a flag (R63, decision D5) -/

/-- Result first, flag second: with `X = 15` the flag remains. -/
theorem State.resultThenFlag_spec (s : State) (x : Reg) {result flag : Byte} {m n : Nat}
    (hresult : result.toNat = m) (hflag : flag.toNat = n) :
    (x ≠ 15 → ((s.resultThenFlag x result flag).reg x).toNat = m) ∧
      ((s.resultThenFlag x result flag).reg 15).toNat = n ∧
      AdvancesWritingRegs (fun q => q = x ∨ q = 15) s (s.resultThenFlag x result flag) := by
  rw [State.resultThenFlag_eq]
  refine ⟨fun hx => ?_, ?_, advancesWritingRegs_setReg_setReg s _ _ (.inl rfl) (.inr rfl)⟩
  · rw [State.advance_reg, State.reg_setReg_other _ _ _ _ hx, State.reg_setReg_same, hresult]
  · rw [State.advance_reg, State.reg_setReg_same, hflag]

/-- Flag first, result second: with `X = 15` the result remains. -/
theorem State.flagThenResult_spec (s : State) (x : Reg) {flag result : Byte} {m n : Nat}
    (hresult : result.toNat = m) (hflag : flag.toNat = n) :
    ((s.flagThenResult x flag result).reg x).toNat = m ∧
      (x ≠ 15 → ((s.flagThenResult x flag result).reg 15).toNat = n) ∧
      AdvancesWritingRegs (fun q => q = x ∨ q = 15) s (s.flagThenResult x flag result) := by
  rw [State.flagThenResult_eq]
  refine ⟨?_, fun hx => ?_, advancesWritingRegs_setReg_setReg s _ _ (.inr rfl) (.inl rfl)⟩
  · rw [State.advance_reg, State.reg_setReg_same, hresult]
  · rw [State.advance_reg, State.reg_setReg_other _ _ _ _ hx.symm, State.reg_setReg_same, hflag]

/-! ### The bytes written (R88) -/

theorem toNat_flagByte (p : Prop) [Decidable p] : (flagByte (decide p)).toNat = if p then 1 else 0 := by
  by_cases h : p <;> simp [flagByte, h]

theorem toNat_carryFlag (a b : Byte) :
    (carryFlag a b).toNat = if 255 < a.toNat + b.toNat then 1 else 0 :=
  toNat_flagByte _

theorem toNat_noBorrowFlag (a b : Byte) :
    (noBorrowFlag a b).toNat = if b.toNat ≤ a.toNat then 1 else 0 :=
  toNat_flagByte _

theorem toNat_sub_byte (a b : Byte) : (a - b).toNat = (a.toNat + 256 - b.toNat) % 256 := by
  bv_omega

theorem toNat_shiftedOutRight (a : Byte) : (shiftedOutRight a).toNat = a.toNat % 2 := by
  rw [shiftedOutRight, BitVec.toNat_and]
  exact Nat.and_one_is_mod _

theorem toNat_shiftedOutLeft (a : Byte) : (shiftedOutLeft a).toNat = a.toNat / 128 := by
  rw [shiftedOutLeft, BitVec.toNat_ushiftRight, Nat.shiftRight_eq_div_pow]

theorem toNat_shiftRight_one (a : Byte) : (a >>> 1).toNat = a.toNat / 2 := by
  rw [BitVec.toNat_ushiftRight, Nat.shiftRight_eq_div_pow]

theorem toNat_shiftLeft_one (a : Byte) : (a <<< 1).toNat = 2 * a.toNat % 256 := by
  rw [BitVec.toNat_shiftLeft, Nat.shiftLeft_eq, Nat.mul_comm]

/-! ### The obligations -/

/-- Settles O36: each is one register write, and addition of bytes is modulo 256. -/
theorem loadAndAddImmediate : Obligations.LoadAndAddImmediate := by
  refine fun x nn s => ⟨⟨_, rfl, s.reg_setReg_same x nn, advancesWritingRegs_setReg s x _⟩,
    ⟨_, rfl, ?_, advancesWritingRegs_setReg s x _⟩⟩
  rw [State.advance_reg, State.reg_setReg_same, BitVec.toNat_add]

/-- Settles O37: each is one register write, and the logic of bytes works on each bit. -/
theorem copyAndLogic : Obligations.CopyAndLogic := by
  refine fun x y s => ⟨⟨_, rfl, s.reg_setReg_same x _, advancesWritingRegs_setReg s x _⟩,
    ⟨_, rfl, fun k => ?_, advancesWritingRegs_setReg s x _⟩,
    ⟨_, rfl, fun k => ?_, advancesWritingRegs_setReg s x _⟩⟩
  · rw [State.advance_reg, State.reg_setReg_same, BitVec.getLsbD_and]
  · rw [State.advance_reg, State.reg_setReg_same, BitVec.getLsbD_xor]

/-- Settles O39: the result is written first and the carry of the latched operands second. -/
theorem addRegistersWithCarry : Obligations.AddRegistersWithCarry :=
  fun x _ s => ⟨_, rfl, s.resultThenFlag_spec x (BitVec.toNat_add _ _) (toNat_carryFlag _ _)⟩

/-- Settles O40: the flag is written first and the difference of the latched operands second. -/
theorem subtractBothWaysWithNoBorrow : Obligations.SubtractBothWaysWithNoBorrow :=
  fun x _ s => ⟨⟨_, rfl, s.flagThenResult_spec x (toNat_sub_byte _ _) (toNat_noBorrowFlag _ _)⟩,
    ⟨_, rfl, s.flagThenResult_spec x (toNat_sub_byte _ _) (toNat_noBorrowFlag _ _)⟩⟩

/-- Settles O41: the bit shifted out is written first and the shifted byte second, and neither depends
on `Y`. -/
theorem shiftsInPlaceIgnoringY : Obligations.ShiftsInPlaceIgnoringY :=
  fun x _ s =>
    ⟨⟨_, rfl, fun _ => rfl,
        s.flagThenResult_spec x (toNat_shiftRight_one _) (toNat_shiftedOutRight _)⟩,
      ⟨_, rfl, fun _ => rfl,
        s.flagThenResult_spec x (toNat_shiftLeft_one _) (toNat_shiftedOutLeft _)⟩⟩

end Sys2Proof.Machine
end

/-! ## Index and memory -/

section
namespace Sys2Proof.Machine

/-! ### Block accesses on either side of the end of memory (R138) -/

theorem withBlock_of_le {s : State} {len : Nat} (act : State → State)
    (h : s.i.toNat + len ≤ 4096) : withBlock s len act = .next (act s) := by
  obtain ⟨-, hrun⟩ | ⟨hout, -⟩ := withBlock_cases s len act
  · exact hrun
  · omega

theorem withBlock_of_lt {s : State} {len : Nat} (act : State → State)
    (h : 4096 < s.i.toNat + len) : withBlock s len act = .next (s.raise outOfMemory) := by
  obtain ⟨hin, -⟩ | ⟨-, hfault⟩ := withBlock_cases s len act
  · omega
  · exact hfault

/-- `FX65` is a block access of `X + 1` bytes (R92). -/
theorem exec_ldVxMem (x : Reg) (s : State) :
    exec (.ldVxMem x) s = withBlock s (blockLength x) fun s =>
      (s.loadRegs (s.ea 0) (regsUpTo x)).advance :=
  rfl

/-- `FX65` with its last address in memory. -/
theorem exec_ldVxMem_of_le {x : Reg} {s : State} (h : s.i.toNat + x.val ≤ 4095) :
    exec (.ldVxMem x) s = .next (s.loadRegs (s.ea 0) (regsUpTo x)).advance :=
  (exec_ldVxMem x s).trans (withBlock_of_le _ (Nat.succ_le_succ h))

/-- `FX65` with its last address above memory. -/
theorem exec_ldVxMem_of_lt {x : Reg} {s : State} (h : 4095 < s.i.toNat + x.val) :
    exec (.ldVxMem x) s = .next (s.raise outOfMemory) :=
  (exec_ldVxMem x s).trans (withBlock_of_lt _ (Nat.succ_lt_succ h))

/-! ### What index writes and block loads leave unchanged -/

theorem keepsAllBut_setIndex (s : State) (a : Addr) : KeepsAllBut [.i] s (s.setIndex a) := by
  intro p hp
  cases p with
  | i => simp at hp
  | mem | v => exact fun _ => rfl
  | pc | stack | sp | dt | st | key | fb | redraw | runState | outcome | tone | draws
  | romLoaded => rfl

theorem advances_setIndex (s : State) (a : Addr) : Advances [.i] s (s.setIndex a).advance :=
  ⟨rfl, ((keepsAllBut_setIndex s a).mono (by decide)).trans
    ((keepsAllBut_setPc _ _).mono (by decide))⟩

/-- A block load is a sequence of register writes. -/
theorem keepsAllBut_loadRegs (s : State) (base : Nat) (js : List Reg) :
    KeepsAllBut [.v] s (s.loadRegs base js) :=
  List.foldlRecOn (motive := KeepsAllBut [.v] s) js _ (keepsAllBut_refl _ s)
    fun t hkeep j _ => hkeep.trans (keepsAllBut_setReg t j _)

theorem keepsRegsBut_loadRegs (s : State) (base : Nat) (x : Reg) :
    KeepsRegsBut (· ≤ x) s (s.loadRegs base (regsUpTo x)) := by
  intro q hq
  rw [State.reg_loadRegs, if_neg (mt (mem_regsUpTo x q).mp hq)]

/-- A register up to `X` gets its own byte of the block (R92). -/
theorem State.reg_loadRegs_of_le (s : State) {x r : Reg} (h : r ≤ x) :
    (s.loadRegs (s.ea 0) (regsUpTo x)).reg r = s.byteAt (s.ea r.val) := by
  rw [State.reg_loadRegs, if_pos ((mem_regsUpTo x r).mpr h)]
  rfl

/-! ### The addresses written to `I` -/

theorem toNat_indexPlus (i : Addr) (b : Byte) :
    (indexPlus i b).toNat = (i.toNat + b.toNat) % 4096 := by
  rw [indexPlus, BitVec.toNat_add, BitVec.toNat_setWidth_of_le (by decide)]

/-- The largest glyph address, 5 * 255, still fits in the index register. -/
theorem toNat_glyphAddr (b : Byte) : (glyphAddr b).toNat = 5 * b.toNat := by
  rw [glyphAddr, BitVec.toNat_ofNat]
  exact Nat.mod_eq_of_lt (by omega)

/-! ### The obligations -/

/-- Settles O43: the instruction is one write of `I`. -/
theorem loadIndexImmediate : Obligations.LoadIndexImmediate :=
  fun nnn s => ⟨_, rfl, rfl, advances_setIndex s nnn⟩

/-- Settles O44: each is one write of `I`; the sum wraps at 4096, and the glyph address needs no
reduction. -/
theorem indexAddAndGlyphAddress : Obligations.IndexAddAndGlyphAddress :=
  fun x s => ⟨⟨_, rfl, toNat_indexPlus s.i (s.reg x), advances_setIndex s _⟩,
    ⟨_, rfl, toNat_glyphAddr (s.reg x), advances_setIndex s _⟩⟩

/-- Settles O45: where the last address `I + X` is in memory the load writes registers 0 to `X`, and
otherwise the fault comes before any write. -/
theorem loadRegisterBlock : Obligations.LoadRegisterBlock := by
  refine fun x s => ⟨fun hfits => ⟨_, exec_ldVxMem_of_le hfits, fun r hr => ?_, ?_⟩,
    fun hout => ⟨_, exec_ldVxMem_of_lt hout, haltsWith_raise s _⟩⟩
  · exact s.reg_loadRegs_of_le hr
  · exact advancesWritingRegs_advance (keepsRegsBut_loadRegs s _ x) (keepsAllBut_loadRegs s _ _)

end Sys2Proof.Machine
end

/-! ## Display -/

section
namespace Sys2Proof.Machine

/-! ### Cells, pixels and the cells of a sprite (R18, R96) -/

/-- The pixel that a cell number names (R18). -/
def cellPixel (c : Nat) : Pixel := (Fin.ofNat 64 c, Fin.ofNat 32 (c / 64))

theorem State.cell_eq_lit (s : State) (c : Nat) : s.cell c = Screen.lit s.fb (cellPixel c) := rfl

theorem exists_cellPixel_eq (p : Pixel) : ∃ c, c < 2048 ∧ cellPixel c = p := by
  obtain ⟨col, row⟩ := p
  refine ⟨col.val + 64 * row.val, by omega, Prod.ext (Fin.ext ?_) (Fin.ext ?_)⟩
  · simp only [cellPixel, Fin.ofNat]
    omega
  · simp only [cellPixel, Fin.ofNat]
    omega

theorem cellPixel_eq_spritePixel_iff {vx vy : Byte} {row col c : Nat} (hc : c < 2048) :
    cellPixel c = spritePixel vx vy row col ↔
      c = (vx.toNat + col) % 64 + 64 * ((vy.toNat + row) % 32) := by
  simp only [cellPixel, spritePixel, Prod.mk.injEq, Fin.ofNat, Fin.mk.injEq]
  omega

theorem SpriteCovers.lt {s : State} {x y : Reg} {n : Height} {c : Nat}
    (h : SpriteCovers s x y n c) : c < 2048 := by
  obtain ⟨row, -, col, -, -, rfl⟩ := h
  omega

theorem State.length_sprite (s : State) (n : Nat) : (s.sprite n).length = n := by
  simp [State.sprite]

/-- The pixels a draw toggles are those of the cells its sprite covers. -/
theorem State.cellPixel_mem_drawn_iff (s : State) (x y : Reg) (n : Height) {c : Nat} (hc : c < 2048) :
    cellPixel c ∈ s.drawn x y n ↔ SpriteCovers s x y n c := by
  simp only [State.drawn, mem_spritePixels, State.length_sprite, SpriteCovers, Nat.zero_add,
    cellPixel_eq_spritePixel_iff hc]
  simp only [State.sprite, List.getElem_map, List.getElem_range, exists_prop]

/-- At most 15 rows are drawn, so no cell is toggled twice (R97). -/
theorem State.nodup_drawn (s : State) (x y : Reg) (n : Height) : (s.drawn x y n).Nodup :=
  nodup_spritePixels _ _ 0 _ (by rw [State.length_sprite]; omega)

/-! ### The state after a draw -/

/-- The state `DXYN` answers where its sprite is in memory; tied to the model by `exec_drw_of_le`. -/
def State.draw (s : State) (x y : Reg) (n : Height) : State :=
  ((s.setScreen (blit s.fb (s.drawn x y n)).1).setReg regF
    (collisionFlag (blit s.fb (s.drawn x y n)).2)).advance

/-- `DXYN` is a block access of `N` bytes (R96). -/
theorem exec_drw (x y : Reg) (n : Height) (s : State) :
    exec (.drw x y n) s = withBlock s n.val fun s => s.draw x y n :=
  rfl

theorem exec_drw_of_le {x y : Reg} {n : Height} {s : State} (h : s.i.toNat + n.val ≤ 4096) :
    exec (.drw x y n) s = .next (s.draw x y n) :=
  (exec_drw x y n s).trans (withBlock_of_le _ h)

theorem exec_drw_of_lt {x y : Reg} {n : Height} {s : State} (h : 4096 < s.i.toNat + n.val) :
    exec (.drw x y n) s = .next (s.raise outOfMemory) :=
  (exec_drw x y n s).trans (withBlock_of_lt _ h)

theorem State.cell_draw (s : State) (x y : Reg) (n : Height) (c : Nat) :
    (s.draw x y n).cell c = (s.cell c ^^ decide (cellPixel c ∈ s.drawn x y n)) := by
  rw [State.cell_eq_lit, State.cell_eq_lit]
  exact (blit_of_nodup s.fb _ (s.nodup_drawn x y n)).1 (cellPixel c)

theorem State.cell_draw_of_covers {s : State} {x y : Reg} {n : Height} {c : Nat}
    (h : SpriteCovers s x y n c) : (s.draw x y n).cell c = !s.cell c := by
  simp [State.cell_draw, (s.cellPixel_mem_drawn_iff x y n h.lt).mpr h]

theorem State.cell_draw_of_not_covers {s : State} {x y : Reg} {n : Height} {c : Nat} (hc : c < 2048)
    (h : ¬ SpriteCovers s x y n c) : (s.draw x y n).cell c = s.cell c := by
  simp [State.cell_draw, mt (s.cellPixel_mem_drawn_iff x y n hc).mp h]

/-- The blit collides exactly where the sprite covers a cell that is 1. -/
theorem State.blit_collides_iff (s : State) (x y : Reg) (n : Height) :
    (blit s.fb (s.drawn x y n)).2 = true ↔ ∃ c, SpriteCovers s x y n c ∧ s.cell c = true := by
  rw [(blit_of_nodup s.fb _ (s.nodup_drawn x y n)).2]
  constructor
  · rintro ⟨p, hp, hlit⟩
    obtain ⟨c, hc, rfl⟩ := exists_cellPixel_eq p
    exact ⟨c, (s.cellPixel_mem_drawn_iff x y n hc).mp hp, hlit⟩
  · rintro ⟨c, hcov, hcell⟩
    exact ⟨cellPixel c, (s.cellPixel_mem_drawn_iff x y n hcov.lt).mpr hcov, hcell⟩

theorem State.reg_draw_flag (s : State) (x y : Reg) (n : Height) :
    (s.draw x y n).reg 15 = flagByte (blit s.fb (s.drawn x y n)).2 :=
  (s.setScreen _).reg_setReg_same regF _

/-! ### What the display instructions leave unchanged -/

theorem keepsAllBut_setScreen (s : State) (f : Screen) :
    KeepsAllBut [.fb, .redraw] s (s.setScreen f) := by
  intro p hp
  cases p with
  | fb | redraw => simp at hp
  | mem | v => exact fun _ => rfl
  | i | pc | stack | sp | dt | st | key | runState | outcome | tone | draws | romLoaded => rfl

/-- Writes that leave `pc` alone, and then the advance. -/
theorem advances_advance {ps : List Part} {s t : State} (hkeep : KeepsAllBut ps s t)
    (hpc : t.pc = s.pc) : Advances ps s t.advance :=
  ⟨congrArg (· + 2) hpc, (hkeep.mono (List.subset_cons_self _ _)).trans
    ((keepsAllBut_setPc t _).mono (by simp))⟩

theorem advances_draw (s : State) (x y : Reg) (n : Height) :
    Advances [.v, .fb, .redraw] s (s.draw x y n) :=
  advances_advance (((keepsAllBut_setScreen s _).mono (by decide)).trans
    ((keepsAllBut_setReg _ regF _).mono (by decide))) rfl

theorem keepsRegsBut_draw (s : State) (x y : Reg) (n : Height) :
    KeepsRegsBut (· = 15) s (s.draw x y n) :=
  keepsRegsBut_setReg (s.setScreen _) (x := regF) _ rfl

/-- What a sprite covers is settled by memory, `I` and the two coordinates. -/
theorem spriteCovers_congr {s t : State} {x y : Reg} (n : Height) (c : Nat)
    (hmem : ∀ a, t.byteAt a = s.byteAt a) (hi : t.i = s.i) (hx : t.reg x = s.reg x)
    (hy : t.reg y = s.reg y) : SpriteCovers t x y n c ↔ SpriteCovers s x y n c := by
  simp only [SpriteCovers, State.ea, hmem, hi, hx, hy]

/-! ### The obligations -/

/-- Settles O50: the screen written has no cell that is 1. -/
theorem clearScreen : Obligations.ClearScreen := by
  refine fun s => ⟨_, rfl, fun c => ?_, rfl, advances_advance (keepsAllBut_setScreen s _) rfl⟩
  simp [State.cell_eq_lit, Screen.lit]

/-- Settles O51: the cells of the sprite are distinct, so the blit is one exclusive or of its image and
collides where the image meets a cell that was 1 before. -/
theorem drawIsOneXorOfTheSprite : Obligations.DrawIsOneXorOfTheSprite := by
  refine fun x y n s => ⟨fun hfits => ⟨_, exec_drw_of_le hfits, fun _ _ => State.cell_draw_of_covers,
      fun _ hc => State.cell_draw_of_not_covers hc, fun hhit => ?_, fun hmiss => ?_, rfl,
      keepsRegsBut_draw s x y n, advances_draw s x y n⟩,
    fun hout => ⟨_, exec_drw_of_lt hout, haltsWith_raise s _⟩⟩
  · rw [State.reg_draw_flag, flagByte_eq_one]
    exact (s.blit_collides_iff x y n).mpr hhit
  · rw [State.reg_draw_flag, flagByte_eq_zero, Bool.eq_false_iff]
    exact mt (s.blit_collides_iff x y n).mp hmiss

/-- Settles O52: the first draw keeps memory, `I` and the coordinates, so both draws (O51) flip the same
cells, and a covered cell of a blank screen is 1 when the second draw reaches it. -/
theorem drawingTwiceRestoresTheScreen : Obligations.DrawingTwiceRestoresTheScreen := by
  intro x y n s hx hy hfits
  obtain ⟨t, ht, hflip, hkeep, -, -, -, hregs, -, hparts⟩ := (drawIsOneXorOfTheSprite x y n s).1 hfits
  have hi : t.i = s.i := hparts .i (by decide)
  have hcov (c : Nat) : SpriteCovers t x y n c ↔ SpriteCovers s x y n c :=
    spriteCovers_congr n c (hparts .mem (by decide)) hi (hregs x hx) (hregs y hy)
  obtain ⟨u, hu, hflip', hkeep', hhit, -⟩ := (drawIsOneXorOfTheSprite x y n t).1 (hi ▸ hfits)
  refine ⟨t, u, ht, hu, State.fb_ext s u fun c hc => ?_, fun hblank ⟨c, hc⟩ => ?_⟩
  · by_cases hs : SpriteCovers s x y n c
    · rw [hflip' c hc ((hcov c).mpr hs), hflip c hc hs, Bool.not_not]
    · rw [hkeep' c hc (mt (hcov c).mp hs), hkeep c hc hs]
  · exact hhit ⟨c, (hcov c).mpr hc, by rw [hflip c hc.lt hc, hblank c, Bool.not_false]⟩

end Sys2Proof.Machine
end

/-! ## Keypad -/

section
namespace Sys2Proof.Machine

/-! ### Key accesses on either side of the last key (R102, R142) -/

theorem withKey_of_eq {s : State} {x : Reg} {k : Key} (act : Key → State)
    (h : (s.reg x).toNat = k.val) : withKey s x act = .next (act k) := by
  obtain ⟨hlt, hrun⟩ | ⟨hout, -⟩ := withKey_cases s x act
  · obtain rfl : ⟨_, hlt⟩ = k := Fin.ext h
    exact hrun
  · omega

theorem withKey_of_lt {s : State} {x : Reg} (act : Key → State) (h : 15 < (s.reg x).toNat) :
    withKey s x act = .next (s.raise (.keyIndexOutOfRange (s.reg x))) := by
  obtain ⟨hlt, -⟩ | ⟨-, hfault⟩ := withKey_cases s x act
  · omega
  · exact hfault

/-- `EX9E` is a key access that skips where the key is down (R100). -/
theorem exec_skp (x : Reg) (s : State) :
    exec (.skp x) s = withKey s x fun k => s.skipIf (s.pressed k) :=
  rfl

/-- `EXA1` is a key access that skips where the key is up (R101). -/
theorem exec_sknp (x : Reg) (s : State) :
    exec (.sknp x) s = withKey s x fun k => s.skipIf (!s.pressed k) :=
  rfl

/-! ### The obligation -/

/-- Settles O53: both are one access of key `V[X]`, and with `V[X]` above 15 it raises the fault before
either looks at the keypad. -/
theorem keySkips : Obligations.KeySkips := by
  refine fun x s => ⟨fun k hkey => ⟨?_, ?_⟩, fun hout => ⟨?_, ?_⟩⟩
  · exact ⟨_, (exec_skp x s).trans (withKey_of_eq _ hkey), changesPcTo_skipIf s Iff.rfl⟩
  · exact ⟨_, (exec_sknp x s).trans (withKey_of_eq _ hkey), changesPcTo_skipIf s (by simp)⟩
  · exact ⟨_, (exec_skp x s).trans (withKey_of_lt _ hout), haltsWith_raise s _⟩
  · exact ⟨_, (exec_sknp x s).trans (withKey_of_lt _ hout), haltsWith_raise s _⟩

end Sys2Proof.Machine
end

/-! ## Timer access -/

section
namespace Sys2Proof.Machine

/-! ### What timer writes leave unchanged -/

theorem keepsAllBut_setDelay (s : State) (b : Byte) : KeepsAllBut [.dt] s (s.setDelay b) := by
  intro p hp
  cases p with
  | dt => simp at hp
  | mem | v => exact fun _ => rfl
  | i | pc | stack | sp | st | key | fb | redraw | runState | outcome | tone | draws
  | romLoaded => rfl

theorem keepsAllBut_setSound (s : State) (b : Byte) : KeepsAllBut [.st] s (s.setSound b) := by
  intro p hp
  cases p with
  | st => simp at hp
  | mem | v => exact fun _ => rfl
  | i | pc | stack | sp | dt | key | fb | redraw | runState | outcome | tone | draws
  | romLoaded => rfl

/-! ### The obligation -/

/-- Settles O55: `FX07` is one register write, and `FX15` and `FX18` are one timer write each. -/
theorem timerAccess : Obligations.TimerAccess :=
  fun x s => ⟨⟨_, rfl, s.reg_setReg_same x s.dt, advancesWritingRegs_setReg s x s.dt⟩,
    ⟨_, rfl, rfl, advances_advance (keepsAllBut_setDelay s _) rfl⟩,
    ⟨_, rfl, rfl, advances_advance (keepsAllBut_setSound s _) rfl⟩⟩

end Sys2Proof.Machine
end

/-! ## Gap instructions: skip, jump with offset, or, random byte -/

section
namespace Sys2Proof.Machine

theorem bne_iff_toNat_ne (a b : Byte) : (a != b) = true ↔ a.toNat ≠ b.toNat :=
  bne_iff_ne.trans BitVec.toNat_inj.symm.not

theorem keepsAllBut_draws (s : State) (n : Nat) : KeepsAllBut [.draws] s { s with draws := n } := by
  intro p hp
  cases p with
  | draws => simp at hp
  | mem | v => exact fun _ => rfl
  | i | pc | stack | sp | dt | st | key | fb | redraw | runState | outcome | tone
  | romLoaded => rfl

/-- `CXNN` is a register write with its advance, and then one more free value used up (R116). -/
theorem keepsAllBut_random (s : State) (x : Reg) (nn rand : Byte) :
    KeepsAllBut [.pc, .v, .draws] s (s.random x nn rand) := by
  obtain ⟨-, -, hwrite⟩ := advancesWritingRegs_setReg s x (rand &&& nn)
  exact (hwrite.mono (by decide)).trans ((keepsAllBut_draws _ (s.draws + 1)).mono (by decide))

/-- A bit that is 0 in the mask is 0 in what the mask leaves. -/
theorem getLsbD_and_of_mask_false (rand : Byte) {nn : Byte} {k : Nat} (hk : nn.getLsbD k = false) :
    (rand &&& nn).getLsbD k = false := by
  rw [BitVec.getLsbD_and, hk, Bool.and_false]

/-! ### The obligations -/

/-- Settles O33: the skip compares bytes, which is comparing their values; the jump is one write of
`pc`, and the sum needs no reduction. -/
theorem gapSkipAndJumpWithOffset : Obligations.GapSkipAndJumpWithOffset :=
  fun _ _ nnn s => ⟨⟨_, rfl, changesPcTo_skipIf s (bne_iff_toNat_ne _ _)⟩,
    ⟨_, rfl, toNat_zext16_add nnn (s.reg 0), keepsAllBut_setPc s _⟩⟩

/-- Settles O38: one register write, and the or of bytes works on each bit. -/
theorem gapOr : Obligations.GapOr := by
  refine fun x y s => ⟨_, rfl, fun k => ?_, advancesWritingRegs_setReg s x _⟩
  rw [State.advance_reg, State.reg_setReg_same, BitVec.getLsbD_or]

/-- Settles O42: the byte written is a conjunction with the mask, whatever the free value. -/
theorem randomByteIsMasked : Obligations.RandomByteIsMasked := by
  intro x nn s
  have hx : (s.random x nn (Config.rand8 s.draws)).reg x = Config.rand8 s.draws &&& nn := by
    rw [State.random_reg, State.reg_setReg_same]
  exact ⟨_, rfl, hx, fun k hk => hx ▸ getLsbD_and_of_mask_false _ hk, rfl,
    keepsRegsBut_setReg s _ rfl, rfl, keepsAllBut_random s x nn _⟩

end Sys2Proof.Machine
end

/-! ## Gap instructions: the wait for a key -/

section
namespace Sys2Proof.Machine

/-- `FX0A` with a key down takes it (R117). -/
theorem exec_ldVxK_of_lowestKey {s : State} {k : Key} (x : Reg) (h : s.lowestKey = some k) :
    exec (.ldVxK x) s = .next (s.setReg x (BitVec.ofNat 8 k.val)).advance := by
  simp only [exec, execLdVxK, h]

/-- `FX0A` with no key down changes nothing, so that the same word is fetched again (R117). -/
theorem exec_ldVxK_of_no_key {s : State} (x : Reg) (h : s.lowestKey = none) :
    exec (.ldVxK x) s = .next s := by
  simp only [exec, execLdVxK, h]

/-- A key number is a byte without reduction. -/
theorem toNat_key_byte (k : Key) : (BitVec.ofNat 8 k.val).toNat = k.val :=
  Nat.mod_eq_of_lt (by omega)

/-- Settles O54: a key that is down with none below it is the lowest one that is down, and with none
down there is no lowest. -/
theorem waitForKey : Obligations.WaitForKey := by
  refine fun x s => ⟨fun k hdown hlow => ?_, fun hup => ?_⟩
  · have hkey : s.lowestKey = some k := (s.lowestKey_eq_some k).mpr ⟨hdown, hlow⟩
    refine ⟨_, exec_ldVxK_of_lowestKey x hkey, ?_, advancesWritingRegs_setReg s x _⟩
    rw [State.advance_reg, State.reg_setReg_same, toNat_key_byte]
  · exact exec_ldVxK_of_no_key x (s.lowestKey_eq_none.mpr hup)

end Sys2Proof.Machine
end

/-! ## Gap instructions: the stores -/

section
namespace Sys2Proof.Machine

/-! ### What a store leaves unchanged -/

theorem keepsAllBut_store (s : State) (base : Nat) (bs : List Byte) :
    KeepsAllBut [.mem] s (s.store base bs) := by
  intro p hp
  cases p with
  | mem => simp at hp
  | v => exact fun _ => rfl
  | i | pc | stack | sp | dt | st | key | fb | redraw | runState | outcome | tone | draws
  | romLoaded => rfl

theorem advances_store (s : State) (base : Nat) (bs : List Byte) :
    Advances [.mem] s (s.store base bs).advance :=
  advances_advance (keepsAllBut_store s base bs) rfl

/-! ### The stores on either side of the end of memory (R138) -/

/-- `FX55` is a block access of `X + 1` bytes (R120). -/
theorem exec_ldMemVx (x : Reg) (s : State) :
    exec (.ldMemVx x) s = withBlock s (blockLength x) fun s =>
      (s.store (s.ea 0) ((regsUpTo x).map s.reg)).advance :=
  rfl

/-- `FX55` with its last address above memory; `exec_ldMemVx_of_fits` is the other side. -/
theorem exec_ldMemVx_of_lt {x : Reg} {s : State} (h : 4095 < s.i.toNat + x.val) :
    exec (.ldMemVx x) s = .next (s.raise outOfMemory) :=
  (exec_ldMemVx x s).trans (withBlock_of_lt _ (Nat.succ_lt_succ h))

/-- `FX33` is a block access of three bytes (R119). -/
theorem exec_ldBVx (x : Reg) (s : State) :
    exec (.ldBVx x) s = withBlock s 3 fun s => (s.store (s.ea 0) (bcdDigits (s.reg x))).advance :=
  rfl

/-- `FX33` with its last address in memory. -/
theorem exec_ldBVx_of_le {x : Reg} {s : State} (h : s.i.toNat + 2 ≤ 4095) :
    exec (.ldBVx x) s = .next (s.store (s.ea 0) (bcdDigits (s.reg x))).advance :=
  (exec_ldBVx x s).trans (withBlock_of_le _ (Nat.succ_le_succ h))

/-- `FX33` with its last address above memory. -/
theorem exec_ldBVx_of_lt {x : Reg} {s : State} (h : 4095 < s.i.toNat + 2) :
    exec (.ldBVx x) s = .next (s.raise outOfMemory) :=
  (exec_ldBVx x s).trans (withBlock_of_lt _ (Nat.succ_lt_succ h))

/-! ### The bytes stored -/

/-- Every byte outside `I` to `I + X` stays (R120). -/
theorem State.byteAt_store_regsUpTo_other (s : State) (x : Reg) (a : Nat)
    (h : a < s.ea 0 ∨ s.ea 0 + blockLength x ≤ a) :
    (s.store (s.ea 0) ((regsUpTo x).map s.reg)).byteAt a = s.byteAt a :=
  s.byteAt_store_other _ _ a (by rwa [List.length_map, length_regsUpTo])

/-- After `FX33` the byte at `I + k` is digit `k`; a digit is a byte without reduction (R119). -/
theorem State.toNat_byteAt_store_bcdDigits {s : State} {b : Byte} {k n : Nat} (hwf : Memory.wf s.mem)
    (hfit : s.i.toNat + 2 ≤ 4095) (hdigit : (bcdDigits b)[k]? = some (BitVec.ofNat 8 n))
    (hn : n < 256) : ((s.store (s.ea 0) (bcdDigits b)).byteAt (s.ea k)).toNat = n := by
  obtain ⟨hk, hval⟩ := List.getElem?_eq_some_iff.mp hdigit
  have hbyte := s.byteAt_store (s.ea 0) (bcdDigits b) k hwf (Nat.succ_le_succ hfit) hk
  exact (congrArg BitVec.toNat (hbyte.trans hval)).trans (Nat.mod_eq_of_lt hn)

/-! ### The obligations -/

/-- Settles O46: where the last address `I + X` is in memory the store is one write of `X + 1` bytes,
and otherwise the fault comes before any write. -/
theorem storeRegisterBlock : Obligations.StoreRegisterBlock :=
  fun x s => ⟨fun hfit => ⟨_, exec_ldMemVx_of_fits hfit,
      fun hwf _ hr => State.byteAt_store_regsUpTo hwf hfit hr,
      s.byteAt_store_regsUpTo_other x, advances_store s _ _⟩,
    fun hout => ⟨_, exec_ldMemVx_of_lt hout, haltsWith_raise s _⟩⟩

/-- Settles O47: where `I + 2` is in memory the store is one write of the three digits, and otherwise
the fault comes before any write. -/
theorem storeDecimalDigits : Obligations.StoreDecimalDigits := by
  refine fun x s => ⟨fun hfit => ⟨_, exec_ldBVx_of_le hfit, fun hwf => ?_,
      s.byteAt_store_other _ (bcdDigits (s.reg x)), advances_store s _ _⟩,
    fun hout => ⟨_, exec_ldBVx_of_lt hout, haltsWith_raise s _⟩⟩
  have hbyte : (s.reg x).toNat < 256 := (s.reg x).isLt
  exact ⟨State.toNat_byteAt_store_bcdDigits (k := 0) hwf hfit rfl (by omega),
    State.toNat_byteAt_store_bcdDigits (k := 1) hwf hfit rfl (by omega),
    State.toNat_byteAt_store_bcdDigits (k := 2) hwf hfit rfl (by omega)⟩

/-- Settles O48: the store (O46) keeps `I` and the registers, and the load (O45) reads from the same
addresses the bytes of the registers it writes. -/
theorem storeThenLoadBlockRestores : Obligations.StoreThenLoadBlockRestores := by
  intro x s hwf hfit
  obtain ⟨t, hstore, hbyte, -, hpct, hkeept⟩ := (storeRegisterBlock x s).1 hfit
  have hi : t.i = s.i := hkeept .i (by decide)
  have hea (k : Nat) : t.ea k = s.ea k := congrArg (fun i : Addr => i.toNat + k) hi
  obtain ⟨u, hload, hread, hregs, hpcu, hkeepu⟩ := (loadRegisterBlock x t).1 (hi ▸ hfit)
  have hkeep : KeepsAllBut [.v, .mem, .pc] s u :=
    (hkeept.mono (by decide)).trans (hkeepu.mono (by decide))
  have hv (r : Reg) : u.reg r = s.reg r := by
    by_cases hr : r ≤ x
    · rw [hread r hr, hea, hbyte hwf r hr]
    · exact (hregs r hr).trans (hkeept .v (by decide) r)
  have hpc : u.pc = s.pc + 4 := by
    rw [hpcu, hpct, BitVec.add_assoc]
    rfl
  exact ⟨t, u, hstore, hload, hpc, hkeep.of_cons hv, hkeepu .mem (by decide)⟩

end Sys2Proof.Machine
end

/-! ## The host's operations -/

section
namespace Sys2Proof.Machine

/-! ### Which moves a run has (R125, R133) -/

theorem Event.next_cycle_eq_some {c : Config} {s t : State} :
    Event.cycle.next c s = some t ↔ Machine.cycle c s = .next t := by
  unfold Event.next
  cases Machine.cycle c s <;> simp

theorem Event.next_host_eq_some {c : Config} {s t : State} {op : HostOp} :
    (Event.host op).next c s = some t ↔ op.permitted c s = true ∧ (op.act c s).2 = t := by
  simp only [Event.next, Option.ite_none_right_eq_some, Option.some.injEq]

theorem Event.next_host_eq_none {c : Config} {s : State} {op : HostOp} :
    (Event.host op).next c s = none ↔ ¬ op.permitted c s = true := by
  simp only [Event.next, ite_eq_right_iff, reduceCtorEq, imp_false]

/-- A report is pending where the last outcome names the address `pc` still holds (R130). -/
theorem State.reportPending_iff (s : State) :
    s.reportPending = true ↔ ∃ w, s.outcome = some (.unknownOpcode s.pc w) := by
  unfold State.reportPending
  cases s.outcome with
  | none => simp
  | some o => cases o <;> simp [eq_comm]

/-- `LoadROM` is a move before the first cycle, where no ROM was loaded (R127, R133). -/
theorem HostOp.permitted_loadRom_iff (c : Config) (s : State) (bytes : List Byte) :
    (HostOp.loadRom bytes).permitted c s = true ↔ s.outcome = none ∧ s.romLoaded = false := by
  simp [HostOp.permitted]

theorem HostOp.permitted_timerTick_iff (c : Config) (s : State) :
    HostOp.timerTick.permitted c s = true ↔ c.tickMode = .host := by
  simp [HostOp.permitted]

/-! ### `SetKey` and `ClearRedraw` (R128, R129) -/

theorem State.pressed_setKey_same (s : State) (k : Key) (b : Bool) : (s.setKey k b).pressed k = b :=
  Vector.getElem_set_self k.isLt

theorem State.pressed_setKey_other (s : State) {j k : Key} (b : Bool) (h : j ≠ k) :
    (s.setKey k b).pressed j = s.pressed j :=
  Vector.getElem_set_ne k.isLt j.isLt (Fin.val_ne_of_ne h.symm)

theorem keepsAllBut_setKey (s : State) (k : Key) (b : Bool) :
    KeepsAllBut [.key] s (s.setKey k b) := by
  intro p hp
  cases p with
  | key => simp at hp
  | mem | v => exact fun _ => rfl
  | i | pc | stack | sp | dt | st | fb | redraw | runState | outcome | tone | draws
  | romLoaded => rfl

theorem keepsAllBut_clearRedraw (s : State) : KeepsAllBut [.redraw] s s.clearRedraw := by
  intro p hp
  cases p with
  | redraw => simp at hp
  | mem | v => exact fun _ => rfl
  | i | pc | stack | sp | dt | st | key | fb | runState | outcome | tone | draws | romLoaded => rfl

/-- Settles O57: both are permitted in every state, and each is one write. -/
theorem setKeyAndClearRedraw : Obligations.SetKeyAndClearRedraw :=
  fun _ k b s => ⟨⟨s.setKey k b, rfl, s.pressed_setKey_same k b, fun _ => s.pressed_setKey_other b,
      keepsAllBut_setKey s k b⟩,
    ⟨s.clearRedraw, rfl, rfl, keepsAllBut_clearRedraw s⟩⟩

/-! ### `LoadROM` (R127) -/

/-- `s` with the bytes of a ROM from 0x200 on; tied to the model by `loadRom_of_le`. -/
def State.withRom (s : State) (bytes : List Byte) : State :=
  { s.store 0x200 bytes with romLoaded := true }

theorem State.loadRom_of_le (s : State) {bytes : List Byte} (h : bytes.length ≤ 3584) :
    s.loadRom bytes = (.loaded, s.withRom bytes) :=
  if_neg (Nat.not_lt.mpr h)

theorem State.loadRom_of_lt (s : State) {bytes : List Byte} (h : 3584 < bytes.length) :
    s.loadRom bytes = (.romTooLarge bytes.length, s) :=
  if_pos h

theorem State.loadRom_reply (s : State) (bytes : List Byte) :
    (s.loadRom bytes).1 = if 3584 < bytes.length then .romTooLarge bytes.length else .loaded := by
  unfold State.loadRom
  split <;> rfl

theorem keepsAllBut_romLoaded (s : State) (b : Bool) :
    KeepsAllBut [.romLoaded] s { s with romLoaded := b } := by
  intro p hp
  cases p with
  | romLoaded => simp at hp
  | mem | v => exact fun _ => rfl
  | i | pc | stack | sp | dt | st | key | fb | redraw | runState | outcome | tone | draws => rfl

theorem keepsAllBut_withRom (s : State) (bytes : List Byte) :
    KeepsAllBut [.mem, .romLoaded] s (s.withRom bytes) :=
  ((keepsAllBut_store s 0x200 bytes).mono (by decide)).trans
    ((keepsAllBut_romLoaded _ true).mono (by decide))

/-- Settles O56: a ROM of at most 3584 bytes is one write of memory from 0x200 on, which ends at 4095
at the latest. -/
theorem loadRomCopiesOrRejects : Obligations.LoadRomCopiesOrRejects := by
  refine fun bytes s => ⟨s.loadRom_of_lt, fun hlen => ⟨s.withRom bytes, s.loadRom_of_le hlen,
    fun hwf => ?_, s.byteAt_store_other 0x200 bytes, keepsAllBut_withRom s bytes⟩⟩
  have hfit : 0x200 + bytes.length ≤ 4096 := by omega
  exact ⟨Memory.wf_writeBytes _ _ bytes hwf hfit, fun k => s.byteAt_store 0x200 bytes k hwf hfit⟩

/-! ### The protocol -/

/-- `HostSkip` leaves no report pending: `pc` has left the address reported (assumption log 24). -/
theorem State.not_reportPending_hostSkip {s : State} (h : s.reportPending = true) :
    ¬ s.hostSkip.reportPending = true := by
  rw [State.reportPending_iff] at h ⊢
  rintro ⟨w', h'⟩
  obtain ⟨w, hw⟩ := h
  have hpc : s.pc = s.pc + 2 := (CycleOutcome.unknownOpcode.inj (Option.some.inj (hw.symm.trans h'))).1
  bv_omega

/-- What each operation replies to the host (R125, R127, R132). -/
theorem HostOp.act_reply (c : Config) (s : State) (op : HostOp) :
    (op.act c s).1 = match op with
      | .loadRom bytes => .load (if 3584 < bytes.length then .romTooLarge bytes.length else .loaded)
      | .timerTick => .tone (decide (s.st.toNat = 1))
      | .reset | .setKey _ _ | .clearRedraw | .hostSkip => .done := by
  cases op with
  | loadRom bytes => exact congrArg HostReply.load (s.loadRom_reply bytes)
  | timerTick =>
    exact congrArg HostReply.tone (Bool.eq_iff_iff.mpr (s.tickTone_iff.trans decide_eq_true_iff.symm))
  | reset | setKey | clearRedraw | hostSkip => rfl

/-- Settles O58: each operation is a move exactly on its condition, and then acts as its own rule says;
`HostSkip` ends its condition itself. -/
theorem hostProtocol : Obligations.HostProtocol := by
  refine fun c s => ⟨?_, fun hno => ?_, fun bytes hno => ?_, fun bytes hnone hrom => ?_, fun hm => ?_,
    fun hm => ?_, HostOp.act_reply c s⟩
  · rintro p w hreport rfl
    have hpend : s.reportPending = true := s.reportPending_iff.mpr ⟨w, hreport⟩
    exact ⟨s.hostSkip, Event.next_host_eq_some.mpr ⟨hpend, rfl⟩, ⟨rfl, keepsAllBut_setPc s _⟩,
      Event.next_host_eq_none.mpr (State.not_reportPending_hostSkip hpend)⟩
  · exact Event.next_host_eq_none.mpr fun hpend => (s.reportPending_iff.mp hpend).elim hno
  · rw [Event.next_host_eq_none, HostOp.permitted_loadRom_iff]
    rintro ⟨hnone, hrom⟩
    exact hno.elim (· hnone) fun hloaded => nomatch hrom.symm.trans hloaded
  · exact Event.next_host_eq_some.mpr ⟨(HostOp.permitted_loadRom_iff c s bytes).mpr ⟨hnone, hrom⟩, rfl⟩
  · rw [Event.next_host_eq_none, HostOp.permitted_timerTick_iff, hm]
    exact nofun
  · exact ⟨s.tick, Event.next_host_eq_some.mpr ⟨(HostOp.permitted_timerTick_iff c s).mpr hm, rfl⟩,
      countDown_toNat s.dt, countDown_toNat s.st, keepsAllBut_tick s⟩

end Sys2Proof.Machine
end

/-! ## Reset and boot -/

section
namespace Sys2Proof.Machine

/-- `Reset` puts every part at its reset value but memory, which takes its `FONT`, and the counter of
free values (R126, R160). -/
theorem keepsAllBut_hostReset (c : Config) (s : State) :
    KeepsAllBut [.mem, .draws] State.reset (s.hostReset c) :=
  ((keepsAllBut_store State.reset 0 c.font.toList).mono (by decide)).trans
    ((keepsAllBut_draws (State.resetAt c) s.draws).mono (by decide))

/-- Settles O59: memory after `Reset` is that of the reset state at these parameters. -/
theorem resetFromAnyState : Obligations.ResetFromAnyState :=
  fun c s => ⟨s.hostReset c, rfl, State.byteAt_resetAt c, State.wf_resetAt c,
    keepsAllBut_hostReset c s, rfl⟩

/-- Settles O28: at the parameters taken the reset state is the state after `Reset`, whose memory is
known; every other part is a literal. -/
theorem resetValues : Obligations.ResetValues := by
  refine ⟨State.resetAt_config ▸ State.byteAt_resetAt config, rfl, by decide, rfl, rfl, rfl, by decide,
    rfl, rfl, by decide, fun c => ?_, rfl, rfl⟩
  simp [State.cell_eq_lit, Screen.lit, State.reset]

/-- A run that begins with `Reset` and `LoadROM` goes on from the state that `LoadROM` leaves: after
`Reset` it is permitted. -/
theorem runEvents_reset_loadRom (c : Config) (s : State) {bytes : List Byte} (es : List Event)
    (h : bytes.length ≤ 3584) :
    runEvents c (.host .reset :: .host (.loadRom bytes) :: es) s =
      runEvents c es ((s.hostReset c).withRom bytes) :=
  congrArg (fun r : LoadResult × State => runEvents c es r.2) ((s.hostReset c).loadRom_of_le h)

theorem keepsAllBut_boot (c : Config) (s : State) (bytes : List Byte) :
    KeepsAllBut [.mem, .draws, .romLoaded] State.reset ((s.hostReset c).withRom bytes) :=
  ((keepsAllBut_hostReset c s).mono (by decide)).trans
    ((keepsAllBut_withRom _ bytes).mono (by decide))

/-- The word that the first fetch after a boot reads, high byte first (R61, R161). -/
theorem fetchWord_boot (c : Config) (s : State) {hi lo : Byte} {rest : List Byte}
    (h : rest.length + 2 ≤ 3584) :
    ((s.hostReset c).withRom (hi :: lo :: rest)).fetchWord = wordOfBytes hi lo := by
  have hfit : 0x200 + (hi :: lo :: rest).length ≤ 4096 := by
    rw [List.length_cons, List.length_cons]
    omega
  have hbyte := (s.hostReset c).byteAt_store 0x200 (hi :: lo :: rest) (h := State.wf_resetAt c)
    (hb := hfit)
  exact congrArg₂ wordOfBytes (hbyte 0 (by simp)) (hbyte 1 (by simp))

/-- With nothing loaded the first fetch reads the zeros above the font. -/
theorem fetchWord_boot_nil (c : Config) (s : State) :
    ((s.hostReset c).withRom []).fetchWord = 0 := by
  have hzero (a : Nat) (h : ¬ a < 80) : (State.resetAt c).byteAt a = 0 :=
    (State.byteAt_resetAt c a).trans (dif_neg h)
  exact congrArg₂ wordOfBytes (hzero 0x200 (by decide)) (hzero 0x201 (by decide))

theorem decodeWord_zero (g : Bool) : decodeWord g 0 = .unknown 0 := by
  cases g <;> rfl

/-- Settles O60: the ROM stands at the reset `pc`; with an empty ROM the word there is 0x0000, which no
pattern matches. -/
theorem bootFetchesTheRom : Obligations.BootFetchesTheRom := by
  refine fun c s => ⟨fun hi lo rest hlen => ?_, ?_⟩
  · refine ⟨_, runEvents_reset_loadRom c s [] hlen, rfl, rfl, ?_, keepsAllBut_boot c s _⟩
    rw [fetchWord_boot c s hlen, toNat_wordOfBytes]
  · have hpc : ((s.hostReset c).withRom []).pc = 0x200 := rfl
    have hdec : decodeWord c.gapFill ((s.hostReset c).withRom []).fetchWord = .unknown 0 :=
      (fetchWord_boot_nil c s).symm ▸ decodeWord_zero c.gapFill
    have hcycle := Event.next_cycle_eq_some.mpr (cycle_unknown rfl (by rw [hpc]; decide) hdec)
    refine ⟨((s.hostReset c).withRom []).report (.unknownOpcode 0x200 0) false,
      (runEvents_reset_loadRom c s [.cycle] (Nat.zero_le _)).trans ?_, rfl, rfl⟩
    simp only [runEvents, hcycle, hpc]

end Sys2Proof.Machine
end

/-! ## The invariant of the system -/

section
namespace Sys2Proof.Machine

/-- The state after `Reset` has the invariant, whatever its `FONT` (R160). -/
theorem State.inv_hostReset (c : Config) (s : State) : (s.hostReset c).Inv c where
  core :=
    { canonical := State.wf_resetAt c
      stackBound := fun k => by simp
      pcBound := by simp
      cause := fun _ h => nomatch h
      outcome := rfl
      tone := fun h => nomatch h }
  report _ _ h := nomatch h

/-- Settles O26: a `Reset` right after a `Reset` changes nothing, and the reset state of the model is the
one at the parameters taken. -/
theorem resetHasCoreInvariant : Obligations.ResetHasCoreInvariant := by
  have hinv (c : Config) : (State.resetAt c).Inv c := State.inv_hostReset c (State.resetAt c)
  exact ⟨State.resetAt_config ▸ (hinv config).core, hinv⟩

/-! ### A cycle -/

theorem complete_outcome_ne_unknownOpcode (c : Config) (s : State) (p w : Word) :
    (complete c s).outcome ≠ some (.unknownOpcode p w) := by
  cases hr : s.runState with
  | halted cause => rw [complete_halted c s cause hr]; exact nofun
  | running => rw [complete_outcome_of_running c hr]; exact nofun

/-- A cycle that reports an unknown word was fetched inside memory and leaves `pc` there (R141). -/
theorem pc_of_cycle_unknownOpcode {c : Config} {s t : State} {p w : Word} (h : cycle c s = .next t)
    (hout : t.outcome = some (.unknownOpcode p w)) : p.toNat ≤ 4094 ∧ t.pc = p := by
  obtain hend | ⟨ins, u, -, -, rfl⟩ := cycle_effect h
  · obtain ⟨cause, -, rfl⟩ | ⟨-, -, rfl⟩ | ⟨-, hp, w, -, rfl⟩ := (fetch_eq_ended c s t).mp hend
    · exact nomatch hout
    · exact nomatch hout
    · cases hout
      exact ⟨hp, rfl⟩
  · exact absurd hout (complete_outcome_ne_unknownOpcode c u p w)

/-- At any parameters a cycle keeps the invariant of the system. -/
theorem cycle_keeps_inv {c : Config} {s t : State} (h : s.Inv c) (hcyc : cycle c s = .next t) :
    t.Inv c :=
  ⟨cycle_keeps_coreInv h.core hcyc, fun _ _ hout =>
    (pc_of_cycle_unknownOpcode hcyc hout).imp_right .inl⟩

/-! ### The host's operations -/

/-- The invariant says nothing of the keypad, `redraw`, `DT` and the record of a loaded ROM; of memory
it asks the canonical form, and of `ST` only where it is 0. -/
theorem State.Inv.of_keepsAllBut {c : Config} {s t : State} (h : s.Inv c)
    (hkeep : KeepsAllBut [.mem, .dt, .st, .key, .redraw, .romLoaded] s t)
    (hmem : Memory.wf t.mem) (hst : s.st = 0 → t.st = 0) : t.Inv c := by
  have hstack : t.stack = s.stack := hkeep .stack (by decide)
  have hpc : t.pc = s.pc := hkeep .pc (by decide)
  have hrun : t.runState = s.runState := hkeep .runState (by decide)
  have hout : t.outcome = s.outcome := hkeep .outcome (by decide)
  have htone : t.tone = s.tone := hkeep .tone (by decide)
  refine ⟨⟨hmem, hstack ▸ h.core.stackBound, hpc ▸ h.core.pcBound, fun cause hc => ?_, ?_, ?_⟩, ?_⟩
  · exact (h.core.cause cause (hrun ▸ hc)).of_eq hpc (hkeep .i (by decide)) (hkeep .sp (by decide))
      (hkeep .v (by decide))
  · simpa only [OutcomeShown, hrun, hout] using h.core.outcome
  · rw [htone, hout]
    exact fun hb => (h.core.tone hb).imp_right hst
  · rw [hpc, hout]
    exact h.report

/-- A core with a pending report runs, at an address that was fetched at, so `HostSkip` stays below the
bound on `pc` (assumption log 24). -/
theorem State.Inv.hostSkip {c : Config} {s : State} (h : s.Inv c) (hpend : s.reportPending = true) :
    s.hostSkip.Inv c := by
  obtain ⟨w, hw⟩ := s.reportPending_iff.mp hpend
  have hp : s.pc.toNat ≤ 4094 := (h.report s.pc w hw).1
  have hshown : OutcomeShown c s (some (.unknownOpcode s.pc w)) := hw ▸ h.core.outcome
  have hadv : (s.pc + 2).toNat ≤ 0x10FE := by bv_omega
  have hsound : s.hostSkip.Sound :=
    .of_running hshown.1 h.core.canonical h.core.stackBound hadv
  refine ⟨⟨hsound.canonical, hsound.stackBound, hsound.pcBound, hsound.cause, h.core.outcome,
    h.core.tone⟩, fun p v hout => ?_⟩
  cases hw.symm.trans hout
  exact ⟨hp, .inr rfl⟩

/-- Whether `LoadROM` loads or rejects (O56), memory stays in canonical form. -/
theorem State.Inv.loadRom {c : Config} {s : State} (h : s.Inv c) (bytes : List Byte) :
    (s.loadRom bytes).2.Inv c := by
  obtain ⟨hreject, hload⟩ := loadRomCopiesOrRejects bytes s
  by_cases hlen : 3584 < bytes.length
  · rw [hreject hlen]
    exact h
  · obtain ⟨t, ht, hmem, -, hkeep⟩ := hload (Nat.not_lt.mp hlen)
    have hst : t.st = s.st := hkeep .st (by decide)
    rw [ht]
    exact h.of_keepsAllBut (hkeep.mono (by decide)) (hmem h.core.canonical).1 hst.trans

/-- At any parameters a permitted operation of the host keeps the invariant of the system. -/
theorem State.Inv.act {c : Config} {s : State} {op : HostOp} (h : s.Inv c)
    (hop : op.permitted c s = true) : (op.act c s).2.Inv c := by
  cases op with
  | reset => exact State.inv_hostReset c s
  | loadRom bytes => exact h.loadRom bytes
  | setKey k b =>
    exact h.of_keepsAllBut ((keepsAllBut_setKey s k b).mono (by decide)) h.core.canonical id
  | clearRedraw =>
    exact h.of_keepsAllBut ((keepsAllBut_clearRedraw s).mono (by decide)) h.core.canonical id
  | hostSkip => exact h.hostSkip hop
  | timerTick =>
    exact h.of_keepsAllBut ((keepsAllBut_tick s).mono (by decide)) h.core.canonical fun hst => by
      rw [HostOp.act, State.tick_st, hst]
      rfl

/-- Settles O27: a cycle keeps the invariant, and so does each operation of the host where it is
permitted. -/
theorem everyEventKeepsSystemInvariant : Obligations.EveryEventKeepsSystemInvariant := by
  intro c s t e h hnext
  cases e with
  | cycle => exact cycle_keeps_inv h (Event.next_cycle_eq_some.mp hnext)
  | host op =>
    obtain ⟨hop, rfl⟩ := Event.next_host_eq_some.mp hnext
    exact h.act hop

end Sys2Proof.Machine
end

/-! ## Fatal faults -/

section
namespace Sys2Proof.Machine

/-- Settles O11: a running core halts at its fetch or by an effect that only raises, and the end of
such a cycle only reports. -/
theorem fatalFaultIsPrecise : Obligations.FatalFaultIsPrecise := by
  intro s t c hr hstep hhalt
  obtain hend | ⟨ins, u, -, heff, rfl⟩ := cycle_effect hstep
  · obtain ⟨c', hc', -⟩ | ⟨-, -, rfl⟩ | ⟨-, -, w, -, rfl⟩ := (fetch_eq_ended config s t).mp hend
    · exact nomatch hr.symm.trans hc'
    · cases hhalt
      exact ⟨rfl, rfl, keepsAllBut_raise_report s _ _ _⟩
    · exact nomatch hr.symm.trans hhalt
  · obtain hrun | ⟨c', -, rfl⟩ := heff.runs_or_raises
    · obtain ⟨-, -, -, -, hkeep⟩ := complete_of_running (hrun.trans hr)
      have hstill : (complete config u).runState = u.runState := hkeep .runState (by decide)
      exact nomatch (hstill.trans (hrun.trans hr)).symm.trans hhalt
    · rw [complete_halted config _ c' rfl] at hhalt ⊢
      cases hhalt
      exact ⟨rfl, rfl, keepsAllBut_raise_report s _ _ _⟩

/-! ### The condition of each fault -/

/-- A block access faults exactly where it reaches beyond memory, whichever way the condition is spelt
(R138). -/
theorem withBlock_runState {s t : State} {len : Nat} {act : State → State} {p : Prop} [Decidable p]
    (h : withBlock s len act = .next t) (hact : (act s).runState = .running)
    (hp : p ↔ 4096 < s.i.toNat + len) :
    t.runState = if p then .halted outOfMemory else .running := by
  obtain ⟨hin, he⟩ | ⟨hout, he⟩ := withBlock_cases s len act
  · cases he.symm.trans h
    rw [if_neg (hp.not.mpr (Nat.not_lt.mpr hin)), hact]
  · cases he.symm.trans h
    rw [if_pos (hp.mpr hout), State.raise_runState]

/-- A key access faults exactly where `V[X]` numbers no key (R142). -/
theorem withKey_runState {s t : State} {x : Reg} {act : Key → State}
    (h : withKey s x act = .next t) (hact : ∀ k, (act k).runState = .running) :
    t.runState =
      if 15 < (s.reg x).toNat then .halted (.keyIndexOutOfRange (s.reg x)) else .running := by
  obtain ⟨hlt, he⟩ | ⟨hge, he⟩ := withKey_cases s x act
  · cases he.symm.trans h
    rw [if_neg (by omega), hact]
  · cases he.symm.trans h
    rw [if_pos (by omega), State.raise_runState]

theorem exec_ret_runState {s t : State} (h : exec .ret s = .next t) (hr : s.runState = .running) :
    t.runState = if s.sp.val = 0 then .halted .stackUnderflow else .running := by
  by_cases hsp : s.sp.val = 0
  · cases (exec_ret_empty hsp).symm.trans h
    rw [if_pos hsp, State.raise_runState]
  · have htop : s.sp.val = s.sp.val - 1 + 1 := by omega
    cases (exec_ret_of_sp_eq (k := ⟨s.sp.val - 1, by omega⟩) htop).symm.trans h
    rwa [if_neg hsp]

theorem exec_call_runState {nnn : Addr} {s t : State} (h : exec (.call nnn) s = .next t)
    (hr : s.runState = .running) :
    t.runState = if s.sp.val = 16 then .halted .stackOverflow else .running := by
  by_cases hsp : s.sp.val = 16
  · cases (exec_call_full nnn hsp).symm.trans h
    rw [if_pos hsp, State.raise_runState]
  · cases (exec_call_of_sp_eq nnn (k := ⟨s.sp.val, by omega⟩) rfl).symm.trans h
    rwa [if_neg hsp]

theorem exec_ldVxK_runState {x : Reg} {s t : State} (h : exec (.ldVxK x) s = .next t) :
    t.runState = s.runState := by
  cases hkey : s.lowestKey with
  | none => cases (exec_ldVxK_of_no_key x hkey).symm.trans h; rfl
  | some k => cases (exec_ldVxK_of_lowestKey x hkey).symm.trans h; rfl

/-- Settles O12: the instructions that access the stack, a key or a block of memory fault exactly where
that access does, and the others answer a state with the same `run_state`. -/
theorem eachInstructionFaultsExactlyWhen : Obligations.EachInstructionFaultsExactlyWhen := by
  intro ins s t hr hexec
  cases ins with
  | ret => exact exec_ret_runState hexec hr
  | call nnn => exact exec_call_runState hexec hr
  | skp x => exact withKey_runState ((exec_skp x s).symm.trans hexec) fun _ => hr
  | sknp x => exact withKey_runState ((exec_sknp x s).symm.trans hexec) fun _ => hr
  | drw x y n => exact withBlock_runState ((exec_drw x y n s).symm.trans hexec) hr (by omega)
  | ldVxMem x =>
    refine withBlock_runState ((exec_ldVxMem x s).symm.trans hexec) ?_ (by unfold blockLength; omega)
    exact (keepsAllBut_loadRegs s _ _ .runState (by decide)).trans hr
  | ldMemVx x =>
    exact withBlock_runState ((exec_ldMemVx x s).symm.trans hexec) hr (by unfold blockLength; omega)
  | ldBVx x => exact withBlock_runState ((exec_ldBVx x s).symm.trans hexec) hr (by omega)
  | ldVxK x => exact (exec_ldVxK_runState hexec).trans hr
  | cls | jp | seImm | sneImm | seReg | ldImm | addImm | ldReg | orReg | andReg | xorReg | addReg
  | subReg | shr | subnReg | shl | sneReg | ldI | jpV0 | rnd | ldVxDt | ldDtVx | ldStVx | addI
  | ldFVx => cases hexec; exact hr

end Sys2Proof.Machine
end
